-- ==== Sys2Proof/Word.lean ====
section
/-! DEFINITION. The word types of the machine: bytes, 16-bit words, operand fields and register numbers. -/

namespace Sys2Proof

/-- A byte of memory, and the contents of a general register, `DT` or `ST` (R14, R23, R29). -/
abbrev Byte := BitVec 8

/-- An opcode, an address register or a stack entry: 16 bits (R16, R21, R22, R49). -/
abbrev Word := BitVec 16

/-- The field `n` (R50), an unsigned count 0 to 15 (R51). -/
abbrev Nibble := BitVec 4

/-- The field `nnn` (R50), an unsigned 12-bit address (R51). -/
abbrev Addr12 := BitVec 12

/-- The number of a general register `V0` to `VF` (R14). -/
abbrev Reg := Fin 16

/-- The flag register `VF` (R15). -/
abbrev VF : Reg := 15

/-- The 16 Booleans of a key vector, indexed by hex keypad value (R32). -/
abbrev KeyVector := Vector Bool 16

end Sys2Proof
end

