-- ==== Sys2Proof/Config.lean ====
section
/-! DEFINITION. What is fixed when a machine state is built (00_scope.md R3, R7 to R10), the inputs of one tick
(R34), and the free values the spec leaves without a law. -/

namespace Sys2Proof

/-- The two variants of the block (R3). -/
inductive Variant where
  | chip8
  | schip
  deriving DecidableEq, Repr, Inhabited

/-- `MEM_SIZE` (R6, R8). -/
abbrev memSize : Nat := 4096

/-- `PROG_BASE`, where the image is loaded and execution starts (R6, R38, R138). -/
abbrev progBase : Nat := 0x200

/-- `MAX_IMAGE`, the longest image a state is built from (R7, R40). -/
abbrev maxImage : Nat := memSize - progBase

/-- `TIMER_HZ` (R7): 60 ticks a second. -/
abbrev timerHz : Nat := 60

/-- The parameters of R7 that the source leaves open, with the variant (R3). They are data of the state (DESIGN CHOICE,
log 1), so that a claim about every state is a claim about every configuration; no step changes them. -/
structure Config where
  /-- `VARIANT` (R3) -/
  variant : Variant
  /-- `SCHIP_SHIFT_IN_PLACE` (R10) -/
  shiftInPlace : Bool
  /-- `STACK_DEPTH` (R22) -/
  stackDepth : Nat
  /-- `FONT_BASE` (R30) -/
  fontBase : Nat
  /-- `FONT_DATA`: 16 glyphs of 5 bytes (R30) -/
  fontData : Vector (Vector Byte 5) 16
  /-- `BIG_FONT_BASE` (R31) -/
  bigFontBase : Nat
  /-- `BIG_FONT_DATA`: 16 glyphs of 10 bytes (R31) -/
  bigFontData : Vector (Vector Byte 10) 16
  /-- `SPEED`, instructions per second (R34, R64) -/
  speed : Rat
  /-- `THROTTLED`: the tick loop sleeps between instructions (R7, R64) -/
  throttled : Bool
  deriving DecidableEq, Repr, Inhabited

/-- One call of `tick` by the host: the two key vectors it carries (R32, R34) and the draw `k` of R64. -/
structure TickRequest where
  keysDown : KeyVector
  keysReleased : KeyVector
  steps : Nat
  deriving DecidableEq, Repr, Inhabited

/-- The random byte of the `n`-th `Random` step: a draw with no law (R91, D33), so a free value (log 5). -/
opaque Config.randomDraw : Nat → Byte

/-- The `n`-th tick call of the host, where the state lists none: keys and `k` are inputs with no law (R32, R64), so a
free value (log 6). -/
opaque Config.hostTick : Nat → TickRequest

end Sys2Proof
end

