-- ==== Sys2Proof/Syntax.lean ====
section
/-! DEFINITION. The instructions: one constructor per row of spec/opcode_table.json (30_encoding.md R53). Operand
fields have the widths of R50, so a register number, a count or an address out of range cannot be written. -/

namespace Sys2Proof

/-- An instruction of R53, with its decoded operands. -/
inductive Instr where
  /-- `00E0` (R107) -/
  | clearScreen
  /-- `00EE` (R71) -/
  | ret
  /-- `00Cn` (R119) -/
  | scrollDown (n : Nibble)
  /-- `00FB` (R120) -/
  | scrollRight
  /-- `00FC` (R121) -/
  | scrollLeft
  /-- `00FD` (R78) -/
  | exit
  /-- `00FE` (R117) -/
  | lores
  /-- `00FF` (R116) -/
  | hires
  /-- `1nnn` (R69) -/
  | jump (nnn : Addr12)
  /-- `2nnn` (R70) -/
  | call (nnn : Addr12)
  /-- `3xnn` (R74) -/
  | skipEqImm (x : Reg) (nn : Byte)
  /-- `4xnn` (R75) -/
  | skipNeImm (x : Reg) (nn : Byte)
  /-- `5xy0` (R76) -/
  | skipEqReg (x y : Reg)
  /-- `6xnn` (R80) -/
  | setImm (x : Reg) (nn : Byte)
  /-- `7xnn` (R81) -/
  | addImm (x : Reg) (nn : Byte)
  /-- `8xy0` (R82) -/
  | set (x y : Reg)
  /-- `8xy1` (R83) -/
  | or (x y : Reg)
  /-- `8xy2` (R84) -/
  | and (x y : Reg)
  /-- `8xy3` (R85) -/
  | xor (x y : Reg)
  /-- `8xy4` (R86) -/
  | add (x y : Reg)
  /-- `8xy5` (R87) -/
  | sub (x y : Reg)
  /-- `8xy6` (R89) -/
  | rightShift (x y : Reg)
  /-- `8xy7` (R88) -/
  | subReverse (x y : Reg)
  /-- `8xyE` (R90) -/
  | leftShift (x y : Reg)
  /-- `9xy0` (R77) -/
  | skipNeReg (x y : Reg)
  /-- `Annn` (R92) -/
  | setIndex (nnn : Addr12)
  /-- `Bnnn` (R72) -/
  | jumpOffset (nnn : Addr12)
  /-- `Cxnn` (R91) -/
  | random (x : Reg) (nn : Byte)
  /-- `Dxyn` (R111) -/
  | draw (x y : Reg) (n : Nibble)
  /-- `Ex9E` (R104) -/
  | skipIfKey (x : Reg)
  /-- `ExA1` (R105) -/
  | skipIfNotKey (x : Reg)
  /-- `Fx07` (R101) -/
  | getDelay (x : Reg)
  /-- `Fx0A` (R106) -/
  | getKey (x : Reg)
  /-- `Fx15` (R102) -/
  | setDelay (x : Reg)
  /-- `Fx18` (R103) -/
  | setSound (x : Reg)
  /-- `Fx1E` (R93) -/
  | addIndex (x : Reg)
  /-- `Fx29` (R94) -/
  | setIndexFont (x : Reg)
  /-- `Fx30` (R95) -/
  | setIndexBigFont (x : Reg)
  /-- `Fx33` (R96) -/
  | decimalConversion (x : Reg)
  /-- `Fx55` (R97) -/
  | storeMemory (x : Reg)
  /-- `Fx65` (R98) -/
  | loadMemory (x : Reg)
  /-- `Fx75` (R99) -/
  | saveFlags (x : Reg)
  /-- `Fx85` (R100) -/
  | loadFlags (x : Reg)
  deriving DecidableEq, Repr

end Sys2Proof
end

