-- ==== Sys2Proof/WellFormed.lean ====
section
/-! DEFINITION. What is well formed: an instruction for a variant (30_encoding.md R56), a configuration (00_scope.md R7,
93_implementation_defined.md U5, U6, U11), a program image (20_memory.md R40). The bounds of operand fields need no check:
Syntax.lean's types hold them. -/

namespace Sys2Proof

/-- `valid(VARIANT, d)` of R56: SCHIP accepts every instruction, CHIP8 all but nine. -/
def Instr.validFor : Variant → Instr → Bool
  | .schip, _ => true
  | .chip8, i =>
    match i with
    | .scrollDown _ | .scrollRight | .scrollLeft | .exit | .lores | .hires => false
    | .setIndexBigFont _ | .saveFlags _ | .loadFlags _ => false
    | .clearScreen | .ret | .jump _ | .call _ => true
    | .skipEqImm _ _ | .skipNeImm _ _ | .skipEqReg _ _ | .skipNeReg _ _ => true
    | .setImm _ _ | .addImm _ _ | .set _ _ | .or _ _ | .and _ _ | .xor _ _ => true
    | .add _ _ | .sub _ _ | .rightShift _ _ | .subReverse _ _ | .leftShift _ _ => true
    | .setIndex _ | .jumpOffset _ | .random _ _ | .draw _ _ _ => true
    | .skipIfKey _ | .skipIfNotKey _ | .getDelay _ | .getKey _ | .setDelay _ | .setSound _ => true
    | .addIndex _ | .setIndexFont _ | .decimalConversion _ | .storeMemory _ | .loadMemory _ => true

/-- The font tables lie inside the reserved area `0x000` to `0x1FF` and do not overlap (R38, U5, U6). -/
def Config.fontsPlaced (c : Config) : Bool :=
  decide (c.fontBase + 80 ≤ progBase) &&
    (c.variant == .chip8 ||
      (decide (c.bigFontBase + 160 ≤ progBase) &&
        (decide (c.fontBase + 80 ≤ c.bigFontBase) || decide (c.bigFontBase + 160 ≤ c.fontBase))))

/-- `SPEED` is a positive number: "values ≤0 are a caller error" (R35, R141). -/
def Config.speedPositive (c : Config) : Bool := decide (0 < c.speed)

/-- A configuration the spec gives a behaviour for. -/
def Config.wellFormed (c : Config) : Bool := c.fontsPlaced && c.speedPositive

/-- An image fits below `0x1000` when it has at most 3584 bytes (R40). -/
def imageFits (image : List Byte) : Bool := decide (image.length ≤ maxImage)

end Sys2Proof
end

