-- ==== Sys2Proof/Decode.lean ====
section
/-! DEFINITION. The decoder of 30_encoding.md (R49 to R55), total on every word and on every list of bytes, and the encoder
written from the same table (R52, R53). -/

namespace Sys2Proof

/-! ### Fields (R50) -/

/-- The high nibble, `op[15:12]`, which selects the group. -/
def fieldGroup (op : Word) : Nibble := op.extractLsb' 12 4

/-- `x = (opcode>>8)&0xF`, a register number. -/
def fieldX (op : Word) : Reg := (op.extractLsb' 8 4).toFin

/-- `y = (opcode>>4)&0xF`, a register number. -/
def fieldY (op : Word) : Reg := (op.extractLsb' 4 4).toFin

/-- `n = opcode&0xF`. -/
def fieldN (op : Word) : Nibble := op.extractLsb' 0 4

/-- `nn = opcode&0xFF`. -/
def fieldNN (op : Word) : Byte := op.extractLsb' 0 8

/-- `nnn = opcode&0xFFF`. -/
def fieldNNN (op : Word) : Addr12 := op.extractLsb' 0 12

/-! ### The decoder (R53) -/

/-- Why a decoder gives no instruction. -/
inductive DecodeError where
  /-- The word matches no row of R53: `UnknownOpcode` (R55). -/
  | unknownOpcode (op : Word)
  /-- Fewer than the two bytes of an instruction (R49) were given; no step of the machine meets this. -/
  | truncated
  deriving DecidableEq, Repr

/-- Group `0`: the literal words and `00Cn`. -/
def decodeGroup0 (op : Word) : Option Instr :=
  if op = 0x00E0#16 then some .clearScreen
  else if op = 0x00EE#16 then some .ret
  else if op = 0x00FB#16 then some .scrollRight
  else if op = 0x00FC#16 then some .scrollLeft
  else if op = 0x00FD#16 then some .exit
  else if op = 0x00FE#16 then some .lores
  else if op = 0x00FF#16 then some .hires
  else if op.extractLsb' 4 12 = 0x00C#12 then some (.scrollDown (fieldN op))
  else none

/-- Group `8`: the register forms selected by `n`. -/
def decodeGroup8 (x y : Reg) (n : Nibble) : Option Instr :=
  if n = 0x0#4 then some (.set x y)
  else if n = 0x1#4 then some (.or x y)
  else if n = 0x2#4 then some (.and x y)
  else if n = 0x3#4 then some (.xor x y)
  else if n = 0x4#4 then some (.add x y)
  else if n = 0x5#4 then some (.sub x y)
  else if n = 0x6#4 then some (.rightShift x y)
  else if n = 0x7#4 then some (.subReverse x y)
  else if n = 0xE#4 then some (.leftShift x y)
  else none

/-- Group `E`: the key skips selected by `nn`. -/
def decodeGroupE (x : Reg) (nn : Byte) : Option Instr :=
  if nn = 0x9E#8 then some (.skipIfKey x)
  else if nn = 0xA1#8 then some (.skipIfNotKey x)
  else none

/-- Group `F`: the dozen operations selected by `nn`. -/
def decodeGroupF (x : Reg) (nn : Byte) : Option Instr :=
  if nn = 0x07#8 then some (.getDelay x)
  else if nn = 0x0A#8 then some (.getKey x)
  else if nn = 0x15#8 then some (.setDelay x)
  else if nn = 0x18#8 then some (.setSound x)
  else if nn = 0x1E#8 then some (.addIndex x)
  else if nn = 0x29#8 then some (.setIndexFont x)
  else if nn = 0x30#8 then some (.setIndexBigFont x)
  else if nn = 0x33#8 then some (.decimalConversion x)
  else if nn = 0x55#8 then some (.storeMemory x)
  else if nn = 0x65#8 then some (.loadMemory x)
  else if nn = 0x75#8 then some (.saveFlags x)
  else if nn = 0x85#8 then some (.loadFlags x)
  else none

/-- The row of R53 that a word matches, if any, by its group. -/
def decodeRow (op : Word) : Option Instr :=
  if fieldGroup op = 0x0#4 then decodeGroup0 op
  else if fieldGroup op = 0x1#4 then some (.jump (fieldNNN op))
  else if fieldGroup op = 0x2#4 then some (.call (fieldNNN op))
  else if fieldGroup op = 0x3#4 then some (.skipEqImm (fieldX op) (fieldNN op))
  else if fieldGroup op = 0x4#4 then some (.skipNeImm (fieldX op) (fieldNN op))
  else if fieldGroup op = 0x5#4 then
    if fieldN op = 0x0#4 then some (.skipEqReg (fieldX op) (fieldY op)) else none
  else if fieldGroup op = 0x6#4 then some (.setImm (fieldX op) (fieldNN op))
  else if fieldGroup op = 0x7#4 then some (.addImm (fieldX op) (fieldNN op))
  else if fieldGroup op = 0x8#4 then decodeGroup8 (fieldX op) (fieldY op) (fieldN op)
  else if fieldGroup op = 0x9#4 then
    if fieldN op = 0x0#4 then some (.skipNeReg (fieldX op) (fieldY op)) else none
  else if fieldGroup op = 0xA#4 then some (.setIndex (fieldNNN op))
  else if fieldGroup op = 0xB#4 then some (.jumpOffset (fieldNNN op))
  else if fieldGroup op = 0xC#4 then some (.random (fieldX op) (fieldNN op))
  else if fieldGroup op = 0xD#4 then some (.draw (fieldX op) (fieldY op) (fieldN op))
  else if fieldGroup op = 0xE#4 then decodeGroupE (fieldX op) (fieldNN op)
  else decodeGroupF (fieldX op) (fieldNN op)

/-- `decode(opcode)` of R53: one instruction, or `UnknownOpcode` with the raw word (R55). -/
def decode (op : Word) : Except DecodeError Instr :=
  match decodeRow op with
  | some i => .ok i
  | none => .error (.unknownOpcode op)

/-- The opcode two bytes of memory hold: the byte at the lower address is the high byte (R41). -/
def wordOfBytes (hi lo : Byte) : Word := hi ++ lo

/-- The byte of a word that stands at the lower address (R41). -/
def highByte (op : Word) : Byte := op.extractLsb' 8 8

/-- The byte of a word that stands at the higher address (R41). -/
def lowByte (op : Word) : Byte := op.extractLsb' 0 8

/-- Decoding from bytes as memory holds them: the instruction and the bytes after it. -/
def decodeBytes : List Byte → Except DecodeError (Instr × List Byte)
  | hi :: lo :: rest =>
    match decode (wordOfBytes hi lo) with
    | .ok i => .ok (i, rest)
    | .error e => .error e
  | _ => .error .truncated

/-! ### The encoder (R52, R53) -/

/-- A register number as the 4-bit field it is encoded in. -/
def regField (r : Reg) : Nibble := BitVec.ofFin r

/-- The pattern `gggg xxxx yyyy ssss` of R52. -/
def encodeXY (g : Nibble) (x y : Reg) (s : Nibble) : Word := g ++ regField x ++ regField y ++ s

/-- The patterns `gggg xxxx nnnn nnnn` and `gggg xxxx ssss ssss` of R52. -/
def encodeXNN (g : Nibble) (x : Reg) (nn : Byte) : Word := g ++ regField x ++ nn

/-- The pattern `gggg nnnn nnnn nnnn` of R52. -/
def encodeNNN (g : Nibble) (nnn : Addr12) : Word := g ++ nnn

/-- The word of an instruction, row by row of R53. -/
def encode : Instr → Word
  | .clearScreen => 0x00E0#16
  | .ret => 0x00EE#16
  | .scrollDown n => 0x00C#12 ++ n
  | .scrollRight => 0x00FB#16
  | .scrollLeft => 0x00FC#16
  | .exit => 0x00FD#16
  | .lores => 0x00FE#16
  | .hires => 0x00FF#16
  | .jump nnn => encodeNNN 0x1#4 nnn
  | .call nnn => encodeNNN 0x2#4 nnn
  | .skipEqImm x nn => encodeXNN 0x3#4 x nn
  | .skipNeImm x nn => encodeXNN 0x4#4 x nn
  | .skipEqReg x y => encodeXY 0x5#4 x y 0x0#4
  | .setImm x nn => encodeXNN 0x6#4 x nn
  | .addImm x nn => encodeXNN 0x7#4 x nn
  | .set x y => encodeXY 0x8#4 x y 0x0#4
  | .or x y => encodeXY 0x8#4 x y 0x1#4
  | .and x y => encodeXY 0x8#4 x y 0x2#4
  | .xor x y => encodeXY 0x8#4 x y 0x3#4
  | .add x y => encodeXY 0x8#4 x y 0x4#4
  | .sub x y => encodeXY 0x8#4 x y 0x5#4
  | .rightShift x y => encodeXY 0x8#4 x y 0x6#4
  | .subReverse x y => encodeXY 0x8#4 x y 0x7#4
  | .leftShift x y => encodeXY 0x8#4 x y 0xE#4
  | .skipNeReg x y => encodeXY 0x9#4 x y 0x0#4
  | .setIndex nnn => encodeNNN 0xA#4 nnn
  | .jumpOffset nnn => encodeNNN 0xB#4 nnn
  | .random x nn => encodeXNN 0xC#4 x nn
  | .draw x y n => encodeXY 0xD#4 x y n
  | .skipIfKey x => encodeXNN 0xE#4 x 0x9E#8
  | .skipIfNotKey x => encodeXNN 0xE#4 x 0xA1#8
  | .getDelay x => encodeXNN 0xF#4 x 0x07#8
  | .getKey x => encodeXNN 0xF#4 x 0x0A#8
  | .setDelay x => encodeXNN 0xF#4 x 0x15#8
  | .setSound x => encodeXNN 0xF#4 x 0x18#8
  | .addIndex x => encodeXNN 0xF#4 x 0x1E#8
  | .setIndexFont x => encodeXNN 0xF#4 x 0x29#8
  | .setIndexBigFont x => encodeXNN 0xF#4 x 0x30#8
  | .decimalConversion x => encodeXNN 0xF#4 x 0x33#8
  | .storeMemory x => encodeXNN 0xF#4 x 0x55#8
  | .loadMemory x => encodeXNN 0xF#4 x 0x65#8
  | .saveFlags x => encodeXNN 0xF#4 x 0x75#8
  | .loadFlags x => encodeXNN 0xF#4 x 0x85#8

/-- The bytes of an instruction as memory holds them, the high byte first (R41). -/
def encodeBytes (i : Instr) : List Byte := [highByte (encode i), lowByte (encode i)]

/-! ### Words as spec/opcode_table.json numbers their bits -/

/-- The instruction word whose bits are `w`, of which the table gives `nbits` and the others are 0. -/
def tableWord (nbits w : Nat) : Word := BitVec.ofNat 16 (w % 2 ^ nbits)

/-- What the decoder reads from the bytes of a table word, laid out as memory holds them (R41). -/
def decodeTableWord (nbits w : Nat) : Option Instr :=
  match decodeBytes [highByte (tableWord nbits w), lowByte (tableWord nbits w)] with
  | .ok (i, _) => some i
  | .error _ => none

end Sys2Proof
end

