-- ==== Sys2Proof/Machine/Defaults.lean ====
section
/-! DEFINITION. The default parameters of 00_scope.md R7, the default font bytes of 10_state.md R30 and R31, the display
sizes of R24, and what memory holds at construction (R36, R38). -/

namespace Sys2Proof

/-- The default `FONT_DATA` (R30). -/
def defaultFont : Vector (Vector Byte 5) 16 := #v[
  #v[0xF0, 0x90, 0x90, 0x90, 0xF0],
  #v[0x20, 0x60, 0x20, 0x20, 0x70],
  #v[0xF0, 0x10, 0xF0, 0x80, 0xF0],
  #v[0xF0, 0x10, 0xF0, 0x10, 0xF0],
  #v[0x90, 0x90, 0xF0, 0x10, 0x10],
  #v[0xF0, 0x80, 0xF0, 0x10, 0xF0],
  #v[0xF0, 0x80, 0xF0, 0x90, 0xF0],
  #v[0xF0, 0x10, 0x20, 0x40, 0x40],
  #v[0xF0, 0x90, 0xF0, 0x90, 0xF0],
  #v[0xF0, 0x90, 0xF0, 0x10, 0xF0],
  #v[0xF0, 0x90, 0xF0, 0x90, 0x90],
  #v[0xE0, 0x90, 0xE0, 0x90, 0xE0],
  #v[0xF0, 0x80, 0x80, 0x80, 0xF0],
  #v[0xE0, 0x90, 0x90, 0x90, 0xE0],
  #v[0xF0, 0x80, 0xF0, 0x80, 0xF0],
  #v[0xF0, 0x80, 0xF0, 0x80, 0x80]]

/-- The default `BIG_FONT_DATA` (R31). -/
def defaultBigFont : Vector (Vector Byte 10) 16 := #v[
  #v[0x3C, 0x7E, 0xE7, 0xC3, 0xC3, 0xC3, 0xC3, 0xE7, 0x7E, 0x3C],
  #v[0x18, 0x38, 0x58, 0x18, 0x18, 0x18, 0x18, 0x18, 0x18, 0x3C],
  #v[0x3E, 0x7F, 0xC3, 0x06, 0x0C, 0x18, 0x30, 0x60, 0xFF, 0xFF],
  #v[0x3C, 0x7E, 0xC3, 0x03, 0x0E, 0x0E, 0x03, 0xC3, 0x7E, 0x3C],
  #v[0x06, 0x0E, 0x1E, 0x36, 0x66, 0xC6, 0xFF, 0xFF, 0x06, 0x06],
  #v[0xFF, 0xFF, 0xC0, 0xC0, 0xFC, 0xFE, 0x03, 0xC3, 0x7E, 0x3C],
  #v[0x3E, 0x7C, 0xE0, 0xC0, 0xFC, 0xFE, 0xC3, 0xC3, 0x7E, 0x3C],
  #v[0xFF, 0xFF, 0x03, 0x06, 0x0C, 0x18, 0x30, 0x60, 0x60, 0x60],
  #v[0x3C, 0x7E, 0xC3, 0xC3, 0x7E, 0x7E, 0xC3, 0xC3, 0x7E, 0x3C],
  #v[0x3C, 0x7E, 0xC3, 0xC3, 0x7F, 0x3F, 0x03, 0x03, 0x3E, 0x7C],
  #v[0x7E, 0xFF, 0xC3, 0xC3, 0xC3, 0xFF, 0xFF, 0xC3, 0xC3, 0xC3],
  #v[0xFC, 0xFC, 0xC3, 0xC3, 0xFC, 0xFC, 0xC3, 0xC3, 0xFC, 0xFC],
  #v[0x3C, 0xFF, 0xC3, 0xC0, 0xC0, 0xC0, 0xC0, 0xC3, 0xFF, 0x3C],
  #v[0xFC, 0xFE, 0xC3, 0xC3, 0xC3, 0xC3, 0xC3, 0xC3, 0xFE, 0xFC],
  #v[0xFF, 0xFF, 0xC0, 0xC0, 0xFF, 0xFF, 0xC0, 0xC0, 0xFF, 0xFF],
  #v[0xFF, 0xFF, 0xC0, 0xC0, 0xFF, 0xFF, 0xC0, 0xC0, 0xC0, 0xC0]]

/-- The defaults of R7 for a variant. `SPEED` and `THROTTLED` have no default there: DESIGN CHOICE, log 2. -/
def Config.standard (variant : Variant) : Config where
  variant := variant
  shiftInPlace := false
  stackDepth := 16
  fontBase := 0x050
  fontData := defaultFont
  bigFontBase := 0x0A0
  bigFontData := defaultBigFont
  speed := 600
  throttled := false

/-- `W`, the number of columns of the display (R24). -/
def displayWidth : Variant → Nat
  | .chip8 => 64
  | .schip => 128

/-- `H`, the number of rows of the display (R24). -/
def displayHeight : Variant → Nat
  | .chip8 => 32
  | .schip => 64

/-- Byte `j` of glyph `g` stands at offset `n·g + j` of a font of `n`-byte glyphs (R30, R31). -/
def fontByte {n : Nat} (font : Vector (Vector Byte n) 16) (offset : Nat) : Byte :=
  match font[offset / n]? with
  | some glyph => glyph[offset % n]?.getD 0
  | none => 0

/-- What address `a` holds at construction, before the image is copied (R36, R38): the small font, in SCHIP the big font,
and 0 elsewhere. Where a configuration lets the tables overlap, the big font is copied last: DESIGN CHOICE, log 3. -/
def Config.byteAtReset (c : Config) (a : Nat) : Byte :=
  if c.variant = .schip ∧ c.bigFontBase ≤ a ∧ a < c.bigFontBase + 160 then
    fontByte c.bigFontData (a - c.bigFontBase)
  else if c.fontBase ≤ a ∧ a < c.fontBase + 80 then
    fontByte c.fontData (a - c.fontBase)
  else 0

end Sys2Proof
end

