-- ==== Sys2Proof/Machine/State.lean ====
section
/-! DEFINITION. The state of the block (10_state.md), its error records (60_exceptions.md R122), its reset value (R36), and
the reasons a step can stop. -/

namespace Sys2Proof.Machine

/-- Which access an `OutOfMemory` error reports (R122). -/
inductive Access where
  | fetch
  | data
  deriving DecidableEq, Repr

/-- The error kinds of R122. -/
inductive ErrorKind where
  | unknownOpcode
  | variantMismatch
  | outOfMemory (access : Access)
  | stackUnderflow
  | stackOverflow
  | keyOutOfRange
  deriving DecidableEq, Repr

/-- The record `(kind, opcode, address)` of an error; the opcode is absent for a failed fetch (R28, R122). -/
structure ErrorRecord where
  kind : ErrorKind
  opcode : Option Word
  address : Word
  deriving DecidableEq, Repr

/-- The result of a tick (R34, R65). -/
inductive TickResult where
  | ok
  | halted
  | error (e : ErrorRecord)
  deriving DecidableEq, Repr

/-- The pixel grid, 64 rows of 128 pixels from the top; bit `x` of a row is column `x` counted from the left (R24). A CHIP8
display is its top left 64 by 32 pixels: DESIGN CHOICE, log 13. -/
abbrev Framebuffer := Vector (BitVec 128) 64

/-- Everything the spec gives the machine (INVENTORY.md, State), and three fields of the model's own: `requests`, `ticks`
and `draws` (log 5, log 6). -/
structure State where
  /-- the parameters fixed at construction (R3, R7) -/
  cfg : Config
  /-- `V0` to `VF` (R14, R15) -/
  v : Vector Byte 16
  /-- the address of the next instruction to fetch (R16) -/
  pc : Word
  /-- the index register `I` (R21) -/
  index : Word
  /-- the return addresses, the most recent first (R22) -/
  stack : List Word
  /-- the delay timer `DT` (R23) -/
  dt : Byte
  /-- the sound timer `ST` (R23) -/
  st : Byte
  /-- the framebuffer (R24) -/
  fb : Framebuffer
  /-- the display mode flag of SCHIP (R25) -/
  hires : Bool
  /-- cleared by `Exit` (R26) -/
  running : Bool
  /-- set by a fatal error (R27) -/
  halted : Bool
  /-- the most recent error (R28) -/
  lastError : Option ErrorRecord
  /-- memory: the bytes that differ from what construction put there, by rising address (R29; log 3) -/
  mem : List Host.Cell
  /-- the keys down, held for the current tick (R32) -/
  keysDown : KeyVector
  /-- the keys released, held for the current tick (R32) -/
  keysReleased : KeyVector
  /-- how many steps the current tick may still run; 0 between ticks (R33, R64) -/
  stepsLeft : Nat
  /-- the result of the last tick that ended (R34) -/
  result : Option TickResult
  /-- tick calls of the host that have not started, the next first (log 6) -/
  requests : List TickRequest
  /-- how many tick calls have been taken (log 6) -/
  ticks : Nat
  /-- how many random bytes have been drawn (log 5) -/
  draws : Nat
  deriving DecidableEq, Repr

/-- The reasons a step stops with a fault. There are none: every error the spec describes is taken as the spec's own trap
entry, a next state (R127; log 9). -/
inductive Fault where
  deriving DecidableEq, Repr

/-- The reasons a step is refused. -/
inductive Refusal where
  /-- Raised by an arm of `exec` whose instruction has no meaning yet; safe, since nothing is claimed of it. -/
  | notModelled (mnemonic : String)
  /-- Raised by `step` when a tick is run with `SPEED` at or below 0, "a caller error" for which the block defines no
  behaviour (R35, R141, D44, U11; log 10); safe, since no claim is made about such a run. -/
  | speedNotPositive
  deriving DecidableEq, Repr

/-- What a step answers. -/
abbrev Result := Host.Outcome State Fault Refusal

/-- The state built for a configuration, before an image is copied to `0x200` (R36). -/
def State.initial (c : Config) : State where
  cfg := c
  v := Vector.replicate 16 0
  pc := 0x200
  index := 0
  stack := []
  dt := 0
  st := 0
  fb := Vector.replicate 64 0
  hires := false
  running := true
  halted := false
  lastError := none
  mem := []
  keysDown := Vector.replicate 16 false
  keysReleased := Vector.replicate 16 false
  stepsLeft := 0
  result := none
  requests := []
  ticks := 0
  draws := 0

/-- The machine right after reset (R36, R137): a SCHIP machine (DESIGN CHOICE, log 2) with the default parameters of R7 and
an empty image. -/
def State.reset : State := State.initial (Config.standard .schip)

end Sys2Proof.Machine
end

