-- ==== Sys2Proof/Machine/Ops.lean ====
section
/-! DEFINITION. The named operations over registers, memory, the stack and the program counter, and the taking of an error
(60_exceptions.md), which every meaning shares. -/

namespace Sys2Proof.Machine

/-! ### Registers (R12, R14) -/

/-- Read `V[r]`. -/
def State.reg (s : State) (r : Reg) : Byte := s.v[r]

/-- `V[r] <- b`. -/
def State.setReg (s : State) (r : Reg) (b : Byte) : State := { s with v := s.v.set r b }

/-- `pc <- target`. -/
def State.setPc (s : State) (target : Word) : State := { s with pc := target }

/-- `I <- a`. -/
def State.setIndex (s : State) (a : Word) : State := { s with index := a }

/-- Pass over the next instruction: `pc <- pc + 2` (R16). -/
def State.skipNext (s : State) : State := s.setPc (s.pc + 2)

/-! ### Memory (20_memory.md) -/

/-- The canonical form of memory for a configuration: addresses rise strictly, exist, and no entry equals what an unlisted
address reads as. -/
abbrev Memory.wf (c : Config) (mem : List Host.Cell) : Prop :=
  mem.Pairwise (fun p q => p.1 < q.1) ∧ ∀ p ∈ mem, p.1 < memSize ∧ p.2 ≠ c.byteAtReset p.1

/-- The byte listed for an address. -/
def Memory.lookup : List Host.Cell → Nat → Option Byte
  | [], _ => none
  | (k, b) :: rest, a => if k = a then some b else Memory.lookup rest a

/-- The byte at address `a`: the listed one, else what construction put there (R36, R46). -/
def Memory.read (c : Config) (mem : List Host.Cell) (a : Nat) : Byte :=
  (Memory.lookup mem a).getD (c.byteAtReset a)

/-- Put byte `b` at address `a`, keeping the canonical form. -/
def Memory.put (c : Config) (a : Nat) (b : Byte) : List Host.Cell → List Host.Cell
  | [] => if b = c.byteAtReset a then [] else [(a, b)]
  | (k, d) :: rest =>
    if k < a then (k, d) :: Memory.put c a b rest
    else if k = a then (if b = c.byteAtReset a then rest else (a, b) :: rest)
    else (if b = c.byteAtReset a then (k, d) :: rest else (a, b) :: (k, d) :: rest)

/-- `MemWrite(a, 1, b)` (R12). An address outside the 4096 bytes holds nothing and is left alone; every access checks its
addresses first (R44), so no meaning reaches that case (log 4). -/
def Memory.write (c : Config) (a : Nat) (b : Byte) (mem : List Host.Cell) : List Host.Cell :=
  if a < memSize then Memory.put c a b mem else mem

/-- Write bytes one by one at increasing addresses from `a` (R43). -/
def Memory.writeAll (c : Config) (a : Nat) : List Byte → List Host.Cell → List Host.Cell
  | [], mem => mem
  | b :: rest, mem => Memory.writeAll c (a + 1) rest (Memory.write c a b mem)

/-- `MemRead(a, 1)` (R12). -/
def State.readByte (s : State) (a : Nat) : Byte := Memory.read s.cfg s.mem a

/-- `MemWrite` of each byte in turn, from address `a` (R43). -/
def State.writeBytes (s : State) (a : Nat) (bytes : List Byte) : State :=
  { s with mem := Memory.writeAll s.cfg a bytes s.mem }

/-- The `count` bytes from address `a` all exist; true when there are none (R44, R110). -/
def inMemory (a count : Nat) : Bool := count == 0 || decide (a + count ≤ memSize)

/-- The opcode at address `a`, big-endian (R41). -/
def State.fetchWord (s : State) (a : Nat) : Word := wordOfBytes (s.readByte a) (s.readByte (a + 1))

/-! ### Stack (R22) -/

/-- `push(a)`. -/
def State.push (s : State) (a : Word) : State := { s with stack := a :: s.stack }

/-! ### Framebuffer (R24) -/

/-- The pixel in column `x` of row `y`; false outside the grid. -/
def Framebuffer.pixel (fb : Framebuffer) (x y : Nat) : Bool :=
  match fb[y]? with
  | some row => row.getLsbD x
  | none => false

/-- `fb[x, y] <- fb[x, y] XOR 1`. -/
def Framebuffer.toggle (fb : Framebuffer) (x y : Nat) : Framebuffer :=
  fb.setIfInBounds y (fb[y]?.getD 0 ^^^ BitVec.twoPow 128 x)

/-- `fb[x, y]`. -/
def State.pixel (s : State) (x y : Nat) : Bool := Framebuffer.pixel s.fb x y

/-! ### Taking an error (R122 to R127) -/

/-- The class of an error: every kind but `UnknownOpcode` and `VariantMismatch` is fatal (R122, R123). -/
def ErrorKind.fatal : ErrorKind → Bool
  | .unknownOpcode | .variantMismatch => false
  | .outOfMemory _ | .stackUnderflow | .stackOverflow | .keyOutOfRange => true

/-- The numeric code of an error kind (R122). -/
def ErrorKind.code : ErrorKind → Nat
  | .unknownOpcode => 1
  | .variantMismatch => 2
  | .outOfMemory _ => 3
  | .stackUnderflow => 4
  | .stackOverflow => 5
  | .keyOutOfRange => 6

/-- Error entry: `last_error` is recorded, `halted` is set for a fatal kind, and the tick ends with the error as its result
(R65, R122, R125, R127). Nothing else changes (R126). There is no return from an error: the next tick goes on at `pc`
(R66, R130). -/
def State.raise (s : State) (e : ErrorRecord) : State :=
  { s with
    lastError := some e
    halted := s.halted || e.kind.fatal
    result := some (.error e)
    stepsLeft := 0 }

/-- The record of an error raised while `i` executes: its word is the opcode, and it stands 2 below `pc`, which the fetch
has advanced (R16, R122; log 11). -/
def State.errorOf (s : State) (kind : ErrorKind) (i : Instr) : ErrorRecord where
  kind := kind
  opcode := some (encode i)
  address := s.pc - 2

/-- `raise kind(opcode, a)` inside the rule of instruction `i` (R12, R124). -/
def State.raiseIn (s : State) (kind : ErrorKind) (i : Instr) : State := s.raise (s.errorOf kind i)

/-- The variant gate of a SCHIP-only instruction: in CHIP8 it raises `VariantMismatch` (R56, R60). -/
def schipOnly (i : Instr) (s : State) (effect : State) : Result :=
  match s.cfg.variant with
  | .schip => .next effect
  | .chip8 => .next (s.raiseIn .variantMismatch i)

end Sys2Proof.Machine
end

