-- ==== Sys2Proof/Machine/Ports.lean ====
section
/-! DEFINITION. The outputs of the block (10_state.md R34), as functions of the state, and what the host sees of them: their
values between ticks, and nothing inside one (40_execution_cycle.md R67). -/

namespace Sys2Proof.Machine

/-- `display`: `H` rows of `W` pixels, from the top left (R24, R34). -/
def State.display (s : State) : List (List Bool) :=
  (List.range (displayHeight s.cfg.variant)).map fun y =>
    (List.range (displayWidth s.cfg.variant)).map fun x => s.pixel x y

/-- `sound_active`: `ST ≠ 0` (R34). -/
def State.soundActive (s : State) : Bool := s.st != 0

/-- `running`: SCHIP `running`, always 1 in CHIP8 (R34). -/
def State.runningPort (s : State) : Bool := s.cfg.variant == .chip8 || s.running

/-- `halted` (R27, R34). -/
def State.haltedPort (s : State) : Bool := s.halted

/-- `result`, as the last tick that ended left it (R34, R65). -/
def State.resultPort (s : State) : Option TickResult := s.result

/-- The outputs as the host reads them between ticks (R34, R35, R67). -/
structure HostView where
  display : List (List Bool)
  soundActive : Bool
  running : Bool
  halted : Bool
  result : Option TickResult
  deriving DecidableEq, Repr

/-- No tick is open: the only time the host reads the outputs (R35, R67; log 8). -/
def State.betweenTicks (s : State) : Bool := s.stepsLeft == 0

/-- What the host sees of a state: the outputs between ticks, and nothing while a tick is open, so that no intermediate
frame is output (R67, R147). -/
def State.hostView (s : State) : Option HostView :=
  if s.betweenTicks then
    some ⟨s.display, s.soundActive, s.runningPort, s.haltedPort, s.resultPort⟩
  else none

end Sys2Proof.Machine
end

