-- ==== Sys2Proof/Machine/Flags.lean ====
section
/-! DEFINITION. The flag computations of VF (10_state.md R15, 42_alu.md R79) and the order in which a result and its flag are
written. -/

namespace Sys2Proof.Machine

/-- A flag as `VF` holds it: 1 or 0. -/
def flagByte (b : Bool) : Byte := if b then 1 else 0

/-- `(s ≥ 256) ? 1 : 0` for the 9-bit sum of two bytes: the carry (R86). -/
def carryOut (a b : Byte) : Bool := decide (256 ≤ a.toNat + b.toNat)

/-- `(l ≥ r) ? 1 : 0`: NOT borrow (R87, R88). -/
def notBorrow (l r : Byte) : Bool := decide (r.toNat ≤ l.toNat)

/-- `src[0]`, the bit a right shift moves out (R89). -/
def shiftedOutRight (src : Byte) : Bool := src.getLsbD 0

/-- `src[7]`, the bit a left shift moves out (R90). -/
def shiftedOutLeft (src : Byte) : Bool := src.getLsbD 7

/-- The result goes to `V[x]` first and the flag to `VF` last, so that the flag wins when `x = F` (R13, R15). -/
def State.setResultAndFlag (s : State) (x : Reg) (result : Byte) (flag : Bool) : State :=
  (s.setReg x result).setReg VF (flagByte flag)

end Sys2Proof.Machine
end

