-- ==== Sys2Proof/Machine/Operands.lean ====
section
/-! DEFINITION. The operand forms of the rules: zero extension, the low nibble, the source of a shift, register ranges and
the geometry of a sprite. -/

namespace Sys2Proof.Machine

/-- `zext_16` of an address field (R12, R51). -/
def addressOf (nnn : Addr12) : Word := nnn.zeroExtend 16

/-- `zext_16` of a byte (R12). -/
def wordOfByte (b : Byte) : Word := b.zeroExtend 16

/-- `low4(b)` (R12). -/
def low4 (b : Byte) : Nat := b.toNat % 16

/-- The address of a glyph of `size` bytes in a font at `base`, as `I` holds it (R94, R95). -/
def glyphAddress (base size : Nat) (b : Byte) : Word := BitVec.ofNat 16 (base + size * low4 b)

/-- The value a shift works on: `Vy`, or `Vx` in a SCHIP machine that shifts in place (R10, R89, R90). -/
def shiftSource (s : State) (x y : Reg) : Byte :=
  if s.cfg.variant = .schip ∧ s.cfg.shiftInPlace = true then s.reg x else s.reg y

/-- How many registers `V0..=Vx` are (R97, R98). -/
def registerCount (x : Reg) : Nat := x.val + 1

/-- The values of `V0..=Vx`, in order (R97). -/
def State.registersUpTo (s : State) (x : Reg) : List Byte := s.v.toList.take (registerCount x)

/-- `V[i] <- MemRead(I + i, 1)` for `i` in `0..x` (R98). -/
def State.loadRegisters (s : State) (x : Reg) : State :=
  { s with v := Vector.ofFn fun i => if i ≤ x then s.readByte (s.index.toNat + i.val) else s.v[i] }

/-- The decimal digits of a byte: hundreds, tens, units (R96). -/
def decimalDigits (b : Byte) : List Byte :=
  [BitVec.ofNat 8 (b.toNat / 100), BitVec.ofNat 8 (b.toNat / 10 % 10), BitVec.ofNat 8 (b.toNat % 10)]

/-- The lowest set entry of a key vector (R106). -/
def lowestKey (keys : KeyVector) : Option Nat := keys.toList.findIdx? id

/-- The geometry of a `Draw`: display size `W × H`, scale `s`, sprite size `w × h` in sprite pixels, bytes per row and
origin (R109). -/
structure Geometry where
  dispW : Nat
  dispH : Nat
  scale : Nat
  width : Nat
  height : Nat
  bytesPerRow : Nat
  originX : Nat
  originY : Nat
  deriving DecidableEq, Repr

/-- The table of R109; `cx` and `cy` are the values of `V[x]` and `V[y]`. -/
def geometry (variant : Variant) (hires : Bool) (n : Nibble) (cx cy : Byte) : Geometry :=
  match variant with
  | .chip8 => ⟨64, 32, 1, 8, n.toNat, 1, cx.toNat % 64, cy.toNat % 32⟩
  | .schip =>
    if hires then
      if n = 0 then ⟨128, 64, 1, 16, 16, 2, cx.toNat % 128, cy.toNat % 64⟩
      else ⟨128, 64, 1, 8, n.toNat, 1, cx.toNat % 128, cy.toNat % 64⟩
    else ⟨128, 64, 2, 8, n.toNat, 1, 2 * (cx.toNat % 64), 2 * (cy.toNat % 32)⟩

/-- How many bytes the sprite takes from `I` (R108, R110). -/
def Geometry.bytes (g : Geometry) : Nat := g.height * g.bytesPerRow

/-- The geometry a `Draw Vx, Vy, n` uses in a state. -/
def State.geometryOf (s : State) (x y : Reg) (n : Nibble) : Geometry :=
  geometry s.cfg.variant s.hires n (s.reg x) (s.reg y)

/-- The distance of a scroll: the hi-res amount, doubled in lo-res (R118). -/
def scrollDistance (hires : Bool) (amount : Nat) : Nat := if hires then amount else 2 * amount

end Sys2Proof.Machine
end

