-- ==== Sys2Proof/Machine/Alu.lean ====
section
/-! DEFINITION. Register arithmetic and logic (42_alu.md R79 to R91). -/

namespace Sys2Proof.Machine

/-- `V[x] <- nn` (R80). -/
def execSetImm (x : Reg) (nn : Byte) (s : State) : Result := .next (s.setReg x nn)

/-- `V[x] <- (V[x] + nn) mod 2^8`; no flag (R81). -/
def execAddImm (x : Reg) (nn : Byte) (s : State) : Result := .next (s.setReg x (s.reg x + nn))

/-- `V[x] <- V[y]` (R82). -/
def execSet (x y : Reg) (s : State) : Result := .next (s.setReg x (s.reg y))

/-- `V[x] <- V[x] OR V[y]`; no flag (R83). -/
def execOr (x y : Reg) (s : State) : Result := .next (s.setReg x (s.reg x ||| s.reg y))

/-- `V[x] <- V[x] AND V[y]`; no flag (R84). -/
def execAnd (x y : Reg) (s : State) : Result := .next (s.setReg x (s.reg x &&& s.reg y))

/-- `V[x] <- V[x] XOR V[y]`; no flag (R85). -/
def execXor (x y : Reg) (s : State) : Result := .next (s.setReg x (s.reg x ^^^ s.reg y))

/-- The sum to `V[x]`, the carry to `VF` (R86). -/
def execAdd (x y : Reg) (s : State) : Result :=
  .next (s.setResultAndFlag x (s.reg x + s.reg y) (carryOut (s.reg x) (s.reg y)))

/-- `V[x] − V[y]` to `V[x]`, NOT borrow to `VF` (R87). -/
def execSub (x y : Reg) (s : State) : Result :=
  .next (s.setResultAndFlag x (s.reg x - s.reg y) (notBorrow (s.reg x) (s.reg y)))

/-- `V[y] − V[x]` to `V[x]`, NOT borrow to `VF` (R88). -/
def execSubReverse (x y : Reg) (s : State) : Result :=
  .next (s.setResultAndFlag x (s.reg y - s.reg x) (notBorrow (s.reg y) (s.reg x)))

/-- `src >> 1` to `V[x]`, `src[0]` to `VF` (R89). -/
def execRightShift (x y : Reg) (s : State) : Result :=
  .next (s.setResultAndFlag x (shiftSource s x y >>> 1) (shiftedOutRight (shiftSource s x y)))

/-- `(src << 1) mod 2^8` to `V[x]`, `src[7]` to `VF` (R90). -/
def execLeftShift (x y : Reg) (s : State) : Result :=
  .next (s.setResultAndFlag x (shiftSource s x y <<< 1) (shiftedOutLeft (shiftSource s x y)))

/-- `V[x] <- r AND nn` for a drawn byte `r`, a free value (R91; log 5); the next `Random` draws another. -/
def execRandom (x : Reg) (nn : Byte) (s : State) : Result :=
  .next { s.setReg x (Config.randomDraw s.draws &&& nn) with draws := s.draws + 1 }

end Sys2Proof.Machine
end

