-- ==== Sys2Proof/Machine/ControlFlow.lean ====
section
/-! DEFINITION. Control flow (41_control_flow.md R69 to R78). While an instruction executes, `pc` is its own address + 2
(R16). -/

namespace Sys2Proof.Machine

/-- `pc <- zext_16(nnn)` (R69). -/
def execJump (nnn : Addr12) (s : State) : Result := .next (s.setPc (addressOf nnn))

/-- Push `pc` and jump; `StackOverflow` at full depth (R70; log 12). -/
def execCall (nnn : Addr12) (s : State) : Result :=
  if s.cfg.stackDepth ≤ s.stack.length then .next (s.raiseIn .stackOverflow (.call nnn))
  else .next ((s.push s.pc).setPc (addressOf nnn))

/-- `pc <- pop()`; `StackUnderflow` on an empty stack (R71). -/
def execReturn (s : State) : Result :=
  match s.stack with
  | [] => .next (s.raiseIn .stackUnderflow .ret)
  | a :: rest => .next { s with stack := rest, pc := a }

/-- `pc <- zext_16(nnn) + zext_16(V[0])` (R72). -/
def execJumpOffset (nnn : Addr12) (s : State) : Result :=
  .next (s.setPc (addressOf nnn + wordOfByte (s.reg 0)))

/-- Skip when `V[x] = nn` (R74). -/
def execSkipEqImm (x : Reg) (nn : Byte) (s : State) : Result :=
  .next (if s.reg x = nn then s.skipNext else s)

/-- Skip when `V[x] ≠ nn` (R75). -/
def execSkipNeImm (x : Reg) (nn : Byte) (s : State) : Result :=
  .next (if s.reg x ≠ nn then s.skipNext else s)

/-- Skip when `V[x] = V[y]` (R76). -/
def execSkipEqReg (x y : Reg) (s : State) : Result :=
  .next (if s.reg x = s.reg y then s.skipNext else s)

/-- Skip when `V[x] ≠ V[y]` (R77). -/
def execSkipNeReg (x y : Reg) (s : State) : Result :=
  .next (if s.reg x ≠ s.reg y then s.skipNext else s)

/-- `running <- 0` in SCHIP (R78). -/
def execExit (s : State) : Result := schipOnly .exit s { s with running := false }

end Sys2Proof.Machine
end

