-- ==== Sys2Proof/Machine/DrawEngine.lean ====
section
/-! DEFINITION. The draw engine (45_display.md R108 to R115) and the moves of the whole grid (R107, R118 to R121). -/

namespace Sys2Proof.Machine

/-- The sprite pixel in column `c` of row `r`: bit `7 − (c mod 8)` of the byte at `I + r·bpr + (c div 8)` (R108, R111). -/
def State.spriteBit (s : State) (g : Geometry) (r c : Nat) : Bool :=
  (s.readByte (s.index.toNat + r * g.bytesPerRow + c / 8)).getLsbD (7 - c % 8)

/-- The `s × s` square of pixels that sprite pixel `(c, r)` paints, row by row (R109, R111). -/
def Geometry.square (g : Geometry) (r c : Nat) : List (Nat × Nat) :=
  (List.range g.scale).flatMap fun dy =>
    (List.range g.scale).map fun dx => (g.originX + g.scale * c + dx, g.originY + g.scale * r + dy)

/-- A pixel on the display; the others are clipped (R112). -/
def Geometry.onDisplay (g : Geometry) (p : Nat × Nat) : Bool := decide (p.1 < g.dispW) && decide (p.2 < g.dispH)

/-- The pixels a sprite toggles, in the order of the loops of R111. -/
def State.spritePixels (s : State) (g : Geometry) : List (Nat × Nat) :=
  (List.range g.height).flatMap fun r =>
    (List.range g.width).flatMap fun c =>
      if s.spriteBit g r c then (g.square r c).filter g.onDisplay else []

/-- One turn of the inner loop of R111: test a pixel for collision, then toggle it. -/
def drawPixel (acc : Framebuffer × Bool) (p : Nat × Nat) : Framebuffer × Bool :=
  (Framebuffer.toggle acc.1 p.1 p.2, acc.2 || Framebuffer.pixel acc.1 p.1 p.2)

/-- The loops of R111: the new grid and the collision flag, which starts at 0 (R113). -/
def drawPixels (fb : Framebuffer) (pixels : List (Nat × Nat)) : Framebuffer × Bool :=
  pixels.foldl drawPixel (fb, false)

/-- Every pixel 0 (R107). -/
def Framebuffer.blank : Framebuffer := Vector.replicate 64 0

/-- `fb'[px, py] <- (py ≥ m) ? fb[px, py − m] : 0` (R119). -/
def Framebuffer.down (fb : Framebuffer) (m : Nat) : Framebuffer :=
  Vector.ofFn fun y => if m ≤ y.val then fb[y.val - m]?.getD 0 else 0

/-- `fb'[px, py] <- (px ≥ m) ? fb[px − m, py] : 0` (R120): toward larger column numbers, which are higher bits of a row. -/
def Framebuffer.right (fb : Framebuffer) (m : Nat) : Framebuffer := fb.map fun (row : BitVec 128) => row <<< m

/-- `fb'[px, py] <- (px + m < 128) ? fb[px + m, py] : 0` (R121). -/
def Framebuffer.left (fb : Framebuffer) (m : Nat) : Framebuffer := fb.map fun (row : BitVec 128) => row >>> m

end Sys2Proof.Machine
end

