-- ==== Sys2Proof/Machine/Display.lean ====
section
/-! DEFINITION. The display instructions (45_display.md R107 to R121). -/

namespace Sys2Proof.Machine

/-- Every pixel to 0 (R107). -/
def execClearScreen (s : State) : Result := .next { s with fb := Framebuffer.blank }

/-- Check the sprite's bytes, then XOR its pixels into the grid and write the collision flag last (R110, R111, R113). -/
def execDraw (x y : Reg) (n : Nibble) (s : State) : Result :=
  if inMemory s.index.toNat (s.geometryOf x y n).bytes then
    let drawn := drawPixels s.fb (s.spritePixels (s.geometryOf x y n))
    .next ({ s with fb := drawn.1 }.setReg VF (flagByte drawn.2))
  else .next (s.raiseIn (.outOfMemory .data) (.draw x y n))

/-- `hires <- 1` in SCHIP (R116). -/
def execHires (s : State) : Result := schipOnly .hires s { s with hires := true }

/-- `hires <- 0` in SCHIP (R117). -/
def execLores (s : State) : Result := schipOnly .lores s { s with hires := false }

/-- Down by `n` rows in hi-res, `2n` in lo-res, in SCHIP (R119). -/
def execScrollDown (n : Nibble) (s : State) : Result :=
  schipOnly (.scrollDown n) s { s with fb := Framebuffer.down s.fb (scrollDistance s.hires n.toNat) }

/-- Right by 4 columns in hi-res, 8 in lo-res, in SCHIP (R120). -/
def execScrollRight (s : State) : Result :=
  schipOnly .scrollRight s { s with fb := Framebuffer.right s.fb (scrollDistance s.hires 4) }

/-- Left by 4 columns in hi-res, 8 in lo-res, in SCHIP (R121). -/
def execScrollLeft (s : State) : Result :=
  schipOnly .scrollLeft s { s with fb := Framebuffer.left s.fb (scrollDistance s.hires 4) }

end Sys2Proof.Machine
end

