-- ==== Sys2Proof/Machine/IndexMemory.lean ====
section
/-! DEFINITION. The index register, fonts and memory transfers (43_index_memory.md R92 to R100). The bound check of
20_memory.md R44 comes before any write. -/

namespace Sys2Proof.Machine

/-- `I <- zext_16(nnn)` (R92). -/
def execSetIndex (nnn : Addr12) (s : State) : Result := .next (s.setIndex (addressOf nnn))

/-- `I <- (I + zext_16(V[x])) mod 2^16`; no flag (R93). -/
def execAddIndex (x : Reg) (s : State) : Result := .next (s.setIndex (s.index + wordOfByte (s.reg x)))

/-- `I <- FONT_BASE + 5 · low4(V[x])` (R94). -/
def execSetIndexFont (x : Reg) (s : State) : Result :=
  .next (s.setIndex (glyphAddress s.cfg.fontBase 5 (s.reg x)))

/-- `I <- BIG_FONT_BASE + 10 · low4(V[x])` in SCHIP (R95). -/
def execSetIndexBigFont (x : Reg) (s : State) : Result :=
  schipOnly (.setIndexBigFont x) s (s.setIndex (glyphAddress s.cfg.bigFontBase 10 (s.reg x)))

/-- The three decimal digits of `V[x]` to `I`, `I+1`, `I+2` (R96). -/
def execDecimalConversion (x : Reg) (s : State) : Result :=
  if inMemory s.index.toNat 3 then .next (s.writeBytes s.index.toNat (decimalDigits (s.reg x)))
  else .next (s.raiseIn (.outOfMemory .data) (.decimalConversion x))

/-- `V0..=Vx` to memory from `I`; `I` is unchanged (R97). -/
def execStoreMemory (x : Reg) (s : State) : Result :=
  if inMemory s.index.toNat (registerCount x) then .next (s.writeBytes s.index.toNat (s.registersUpTo x))
  else .next (s.raiseIn (.outOfMemory .data) (.storeMemory x))

/-- `V0..=Vx` from memory at `I`; `I` is unchanged (R98). -/
def execLoadMemory (x : Reg) (s : State) : Result :=
  if inMemory s.index.toNat (registerCount x) then .next (s.loadRegisters x)
  else .next (s.raiseIn (.outOfMemory .data) (.loadMemory x))

/-- Nothing beyond the fetch's `pc` advance in SCHIP (R99). -/
def execSaveFlags (x : Reg) (s : State) : Result := schipOnly (.saveFlags x) s s

/-- Nothing beyond the fetch's `pc` advance in SCHIP (R100). -/
def execLoadFlags (x : Reg) (s : State) : Result := schipOnly (.loadFlags x) s s

end Sys2Proof.Machine
end

