-- ==== Sys2Proof/Machine/TimersKeys.lean ====
section
/-! DEFINITION. Timers and keys (44_timers_keys.md R101 to R106). -/

namespace Sys2Proof.Machine

/-- `V[x] <- DT` (R101). -/
def execGetDelay (x : Reg) (s : State) : Result := .next (s.setReg x s.dt)

/-- `DT <- V[x]` (R102). -/
def execSetDelay (x : Reg) (s : State) : Result := .next { s with dt := s.reg x }

/-- `ST <- V[x]` (R103). -/
def execSetSound (x : Reg) (s : State) : Result := .next { s with st := s.reg x }

/-- `keys_down[k]`, absent for `k > 15` (R32, R104). -/
def State.keyDown (s : State) (k : Byte) : Option Bool := s.keysDown[k.toNat]?

/-- Skip when the key `V[x]` is down; `KeyOutOfRange` when `V[x] > 15` (R104). -/
def execSkipIfKey (x : Reg) (s : State) : Result :=
  match s.keyDown (s.reg x) with
  | some down => .next (if down then s.skipNext else s)
  | none => .next (s.raiseIn .keyOutOfRange (.skipIfKey x))

/-- Skip when the key `V[x]` is not down; `KeyOutOfRange` when `V[x] > 15` (R105). -/
def execSkipIfNotKey (x : Reg) (s : State) : Result :=
  match s.keyDown (s.reg x) with
  | some down => .next (if down then s else s.skipNext)
  | none => .next (s.raiseIn .keyOutOfRange (.skipIfNotKey x))

/-- The lowest released key to `V[x]`, or back to this instruction: `pc <- pc − 2` (R106). -/
def execGetKey (x : Reg) (s : State) : Result :=
  .next (match lowestKey s.keysReleased with
    | some k => s.setReg x (BitVec.ofNat 8 k)
    | none => s.setPc (s.pc - 2))

end Sys2Proof.Machine
end

