-- ==== Sys2Proof/Machine/Dispatch.lean ====
section
/-! DEFINITION. The `execute(d)` of 40_execution_cycle.md R60: one arm per instruction. -/

namespace Sys2Proof.Machine

def exec (i : Instr) (s : State) : Host.Outcome State Fault Refusal :=
  match i with
  -- 41_control_flow.md
  | .ret => Sys2Proof.Machine.execReturn s
  | .jump nnn => Sys2Proof.Machine.execJump nnn s
  | .call nnn => Sys2Proof.Machine.execCall nnn s
  | .skipEqImm x nn => Sys2Proof.Machine.execSkipEqImm x nn s
  | .skipNeImm x nn => Sys2Proof.Machine.execSkipNeImm x nn s
  | .skipEqReg x y => Sys2Proof.Machine.execSkipEqReg x y s
  | .skipNeReg x y => Sys2Proof.Machine.execSkipNeReg x y s
  | .jumpOffset nnn => Sys2Proof.Machine.execJumpOffset nnn s
  | .exit => Sys2Proof.Machine.execExit s
  -- 42_alu.md
  | .setImm x nn => Sys2Proof.Machine.execSetImm x nn s
  | .addImm x nn => Sys2Proof.Machine.execAddImm x nn s
  | .set x y => Sys2Proof.Machine.execSet x y s
  | .or x y => Sys2Proof.Machine.execOr x y s
  | .and x y => Sys2Proof.Machine.execAnd x y s
  | .xor x y => Sys2Proof.Machine.execXor x y s
  | .add x y => Sys2Proof.Machine.execAdd x y s
  | .sub x y => Sys2Proof.Machine.execSub x y s
  | .rightShift x y => Sys2Proof.Machine.execRightShift x y s
  | .subReverse x y => Sys2Proof.Machine.execSubReverse x y s
  | .leftShift x y => Sys2Proof.Machine.execLeftShift x y s
  | .random x nn => Sys2Proof.Machine.execRandom x nn s
  -- 43_index_memory.md
  | .setIndex nnn => Sys2Proof.Machine.execSetIndex nnn s
  | .addIndex x => Sys2Proof.Machine.execAddIndex x s
  | .setIndexFont x => Sys2Proof.Machine.execSetIndexFont x s
  | .setIndexBigFont x => Sys2Proof.Machine.execSetIndexBigFont x s
  | .decimalConversion x => Sys2Proof.Machine.execDecimalConversion x s
  | .storeMemory x => Sys2Proof.Machine.execStoreMemory x s
  | .loadMemory x => Sys2Proof.Machine.execLoadMemory x s
  | .saveFlags x => Sys2Proof.Machine.execSaveFlags x s
  | .loadFlags x => Sys2Proof.Machine.execLoadFlags x s
  -- 44_timers_keys.md
  | .getDelay x => Sys2Proof.Machine.execGetDelay x s
  | .getKey x => Sys2Proof.Machine.execGetKey x s
  | .setDelay x => Sys2Proof.Machine.execSetDelay x s
  | .setSound x => Sys2Proof.Machine.execSetSound x s
  | .skipIfKey x => Sys2Proof.Machine.execSkipIfKey x s
  | .skipIfNotKey x => Sys2Proof.Machine.execSkipIfNotKey x s
  -- 45_display.md
  | .clearScreen => Sys2Proof.Machine.execClearScreen s
  | .draw x y n => Sys2Proof.Machine.execDraw x y n s
  | .hires => Sys2Proof.Machine.execHires s
  | .lores => Sys2Proof.Machine.execLores s
  | .scrollDown n => Sys2Proof.Machine.execScrollDown n s
  | .scrollRight => Sys2Proof.Machine.execScrollRight s
  | .scrollLeft => Sys2Proof.Machine.execScrollLeft s

end Sys2Proof.Machine
end

