-- ==== Sys2Proof/Machine/Tick.lean ====
section
/-! DEFINITION. The step and the tick controller (40_execution_cycle.md R59 to R68), and the building of a machine state for
an image (R36, R40). Step.lean puts these together. -/

namespace Sys2Proof.Machine

/-! ### The step (R59, R60) -/

/-- The machine's own continuation of an outcome that has a next state. -/
def thenDo (o : Result) (f : State → State) : Result :=
  match o with
  | .next t => .next (f t)
  | .fault r => .fault r
  | .refused r => .refused r

/-- The fetch crosses the end of memory: `a + 1 ≥ 4096` (R59). -/
def fetchFails (s : State) : Bool := decide (memSize ≤ s.pc.toNat + 1)

/-- `pc <- a + 2`, before the instruction is decoded (R16, R60). -/
def State.advance (s : State) : State := s.setPc (s.pc + 2)

/-- One step of R60: fetch, advance `pc`, decode, execute; the variant gate stands in the meanings it concerns. -/
def fetchAndExecute (s : State) : Result :=
  if fetchFails s then
    .next (s.raise ⟨.outOfMemory .fetch, none, s.pc⟩)
  else
    match decode (s.fetchWord s.pc.toNat) with
    | .ok i => exec i s.advance
    | .error _ => .next (s.advance.raise ⟨.unknownOpcode, some (s.fetchWord s.pc.toNat), s.pc⟩)

/-! ### The tick controller (R63 to R65) -/

/-- `sat_dec(t)` (R12). -/
def satDec (t : Byte) : Byte := if t = 0 then 0 else t - 1

/-- `ceil(SPEED / 60)`, for a positive `SPEED` (R64). -/
def stepCap (c : Config) : Nat := (c.speed.num.toNat + timerHz * c.speed.den - 1) / (timerHz * c.speed.den)

/-- The number of steps a tick may run: at least 1, and at most `ceil(SPEED / 60)` when throttled (R64). A draw outside these
bounds is brought within them: DESIGN CHOICE, log 7. -/
def tickSteps (c : Config) (k : Nat) : Nat := max 1 (if c.throttled then min k (stepCap c) else k)

/-- The tick call that starts next: the first the state lists, else a free one (log 6). -/
def State.nextRequest (s : State) : TickRequest :=
  match s.requests with
  | r :: _ => r
  | [] => Config.hostTick s.ticks

/-- No tick is open, so the next step is the first of a new tick. -/
def State.atTickStart (s : State) : Bool := s.stepsLeft == 0

/-- The start of a tick: the timers are decremented once, the keys are sampled, and `k` is drawn (R32, R63, R64). Inside a
tick nothing changes. Field by field, so that a free `k` decides only these fields. -/
def openTick (s : State) : State :=
  { s with
    dt := if s.atTickStart then satDec s.dt else s.dt
    st := if s.atTickStart then satDec s.st else s.st
    keysDown := if s.atTickStart then s.nextRequest.keysDown else s.keysDown
    keysReleased := if s.atTickStart then s.nextRequest.keysReleased else s.keysReleased
    stepsLeft := if s.atTickStart then tickSteps s.cfg s.nextRequest.steps else s.stepsLeft
    requests := if s.atTickStart then s.requests.tail else s.requests
    ticks := if s.atTickStart then s.ticks + 1 else s.ticks }

/-- `VARIANT = SCHIP and running = 0` (R65). -/
def State.exited (s : State) : Bool := s.cfg.variant == .schip && !s.running

/-- After a step: an error has already ended the tick (`stepsLeft` is 0); `Exit` ends it, and so does the last of its
steps, with the result `ok` (R65). -/
def closeStep (s : State) : State :=
  { s with
    stepsLeft := if s.exited then 0 else s.stepsLeft - 1
    result := if s.stepsLeft ≠ 0 ∧ (s.exited = true ∨ s.stepsLeft = 1) then some .ok else s.result }

/-- A tick that runs no step: the call is taken and answered, and nothing else changes (R65). -/
def answerTick (s : State) (r : TickResult) : State :=
  { s with result := some r, requests := s.requests.tail, ticks := s.ticks + 1 }

/-! ### Construction (R36, R40, R137) -/

/-- The machine state for a configuration and a program image; an image over 3584 bytes is refused (R40). The model loads a
program from outside the machine this way (log 15). -/
def construct (c : Config) (image : List Byte) : Option State :=
  if image.length ≤ maxImage then some ((State.initial c).writeBytes progBase image) else none

end Sys2Proof.Machine
end

