-- ==== Sys2Proof/Machine/Step.lean ====
section
/-! DEFINITION. The machine's step (40_execution_cycle.md R60, R65; log 8), and the placing of a word where it fetches. -/

namespace Sys2Proof.Machine

/-- One move of the block. A tick on a halted machine answers `halted`, and one after `Exit` answers `ok`, without a step
(R65). Otherwise a tick is opened if none is, one step is run, and the tick is closed if that was its last. -/
def step (s : State) : Host.Outcome State Fault Refusal :=
  if s.halted then .next (answerTick s .halted)
  else if s.exited then .next (answerTick s .ok)
  else if s.cfg.speed ≤ 0 then .refused .speedNotPositive
  else thenDo (fetchAndExecute (openTick s)) closeStep

/-- The state with the instruction word of `w` at `pc`, high byte first, and with the two latches that keep a tick from
fetching released, so that the next step fetches and runs it (log 15). -/
def State.withFetchWord (s : State) (nbits w : Nat) : State :=
  { s.writeBytes s.pc.toNat [highByte (tableWord nbits w), lowByte (tableWord nbits w)] with
    halted := false
    running := true }

end Sys2Proof.Machine
end

