-- ==== Sys2Proof/Safety.lean ====
section
/-! DEFINITION. The terms in which claims about the machine are made: its invariant, the frames of instructions, and what a
sprite covers. -/

namespace Sys2Proof.Machine

/-- Every byte of memory reads as before. -/
def SameMemory (s t : State) : Prop := ∀ a, t.readByte a = s.readByte a

/-- Only general registers may differ; every byte of memory reads as before. -/
def OnlyRegisters (s t : State) : Prop := t = { s with v := t.v } ∧ SameMemory s t

/-- Only `pc` may differ; every byte of memory reads as before. -/
def OnlyPc (s t : State) : Prop := t = { s with pc := t.pc } ∧ SameMemory s t

/-- Only `I` may differ; every byte of memory reads as before. -/
def OnlyIndex (s t : State) : Prop := t = { s with index := t.index } ∧ SameMemory s t

/-- Only the framebuffer may differ; every byte of memory reads as before. -/
def OnlyFramebuffer (s t : State) : Prop := t = { s with fb := t.fb } ∧ SameMemory s t

/-- Only memory may differ, and in it only the `count` bytes from address `a`. -/
def OnlyBytes (a count : Nat) (s t : State) : Prop :=
  t = { s with mem := t.mem } ∧ ∀ b, ¬(a ≤ b ∧ b < a + count) → t.readByte b = s.readByte b

/-- `t` is `s` after the entry of the error `e` and nothing else (R126, R127): the record, the `halted` latch of a fatal
kind, and the end of the tick with its result. -/
def AfterError (e : ErrorRecord) (s t : State) : Prop :=
  t = { s with
    lastError := some e
    halted := s.halted || e.kind.fatal
    result := some (.error e)
    stepsLeft := 0 }

/-- The block may run a step: it is not halted, `Exit` has not stopped it, and the host keeps its duty on `SPEED`
(R35, R65). -/
def CanRun (s : State) : Prop :=
  s.halted = false ∧ (s.cfg.variant = .schip → s.running = true) ∧ 0 < s.cfg.speed

/-- An unclipped pixel that a set sprite pixel of the geometry `g` paints (R108, R109, R111, R112). -/
def SpriteCovers (s : State) (g : Geometry) (px py : Nat) : Prop :=
  px < g.dispW ∧ py < g.dispH ∧
    ∃ r c, r < g.height ∧ c < g.width ∧
      (s.readByte (s.index.toNat + r * g.bytesPerRow + c / 8)).getLsbD (7 - c % 8) = true ∧
      g.originX + g.scale * c ≤ px ∧ px < g.originX + g.scale * c + g.scale ∧
      g.originY + g.scale * r ≤ py ∧ py < g.originY + g.scale * r + g.scale

/-- The invariant of the block. -/
structure State.Inv (s : State) : Prop where
  /-- memory is in its canonical form -/
  memory : Memory.wf s.cfg s.mem
  /-- `0 ≤ d ≤ STACK_DEPTH` (R22) -/
  depth : s.stack.length ≤ s.cfg.stackDepth
  /-- a return address is at most 4096, what a `Call` at 4094 pushes (R19) -/
  returns : ∀ a ∈ s.stack, a.toNat ≤ 0x1000
  /-- `pc` never wraps: the largest value is that of `JumpOffset` (R19) -/
  pcBound : s.pc.toNat ≤ 0x10FE
  /-- CHIP8 has no `hires` and no `running`, and no pixel outside 64 by 32 (R24, R25, R26; log 13, log 14) -/
  chip8 : s.cfg.variant = .chip8 →
    s.hires = false ∧ s.running = true ∧ ∀ x y, 64 ≤ x ∨ 32 ≤ y → s.pixel x y = false
  /-- `halted` is set exactly when the most recent error is fatal (R27, R125) -/
  latch : s.halted = true ↔ ∃ e, s.lastError = some e ∧ e.kind.fatal = true
  /-- only a failed fetch has no opcode (R122) -/
  opcode : ∀ e, s.lastError = some e → (e.opcode = none ↔ e.kind = .outOfMemory .fetch)
  /-- a fatal error and `Exit` end the tick (R65) -/
  tickEnded : s.halted = true ∨ s.running = false → s.stepsLeft = 0
  /-- a throttled tick runs at most `ceil(SPEED / 60)` steps (R64) -/
  throttle : s.cfg.throttled = true → 0 < s.cfg.speed → s.stepsLeft ≤ stepCap s.cfg

end Sys2Proof.Machine

namespace Sys2Proof

/-- The instructions that write `VF` as a side effect (R15). -/
def Instr.writesFlag : Instr → Bool
  | .add _ _ | .sub _ _ | .subReverse _ _ | .rightShift _ _ | .leftShift _ _ | .draw _ _ _ => true
  | .clearScreen | .ret | .scrollDown _ | .scrollRight | .scrollLeft | .exit => false
  | .lores | .hires | .jump _ | .call _ | .skipEqImm _ _ | .skipNeImm _ _ => false
  | .skipEqReg _ _ | .skipNeReg _ _ | .setIndex _ | .jumpOffset _ | .skipIfKey _ | .skipIfNotKey _ => false
  | .setDelay _ | .setSound _ | .addIndex _ | .setIndexFont _ | .setIndexBigFont _ | .decimalConversion _ => false
  | .storeMemory _ | .saveFlags _ | .loadFlags _ | .setImm _ _ | .addImm _ _ | .random _ _ => false
  | .getDelay _ | .getKey _ | .set _ _ | .or _ _ | .and _ _ | .xor _ _ => false
  | .loadMemory _ => false

/-- The registers an instruction names as its destination: `Vx`, or `V0..=Vx` for `LoadMemory` (R14, R15, R98). -/
def Instr.writesRegister (i : Instr) (r : Reg) : Prop :=
  match i with
  | .setImm x _ | .addImm x _ | .random x _ | .getDelay x | .getKey x => r = x
  | .set x _ | .or x _ | .and x _ | .xor x _ | .add x _ | .sub x _ | .subReverse x _ => r = x
  | .rightShift x _ | .leftShift x _ => r = x
  | .loadMemory x => r ≤ x
  | .clearScreen | .ret | .scrollDown _ | .scrollRight | .scrollLeft | .exit => False
  | .lores | .hires | .jump _ | .call _ | .skipEqImm _ _ | .skipNeImm _ _ => False
  | .skipEqReg _ _ | .skipNeReg _ _ | .setIndex _ | .jumpOffset _ | .skipIfKey _ | .skipIfNotKey _ => False
  | .setDelay _ | .setSound _ | .addIndex _ | .setIndexFont _ | .setIndexBigFont _ | .decimalConversion _ => False
  | .storeMemory _ | .saveFlags _ | .loadFlags _ | .draw _ _ _ => False

/-- The instructions that store to memory (R43, R44). -/
def Instr.stores : Instr → Bool
  | .decimalConversion _ | .storeMemory _ => true
  | .clearScreen | .ret | .scrollDown _ | .scrollRight | .scrollLeft | .exit => false
  | .lores | .hires | .jump _ | .call _ | .skipEqImm _ _ | .skipNeImm _ _ => false
  | .skipEqReg _ _ | .skipNeReg _ _ | .setIndex _ | .jumpOffset _ | .skipIfKey _ | .skipIfNotKey _ => false
  | .setDelay _ | .setSound _ | .addIndex _ | .setIndexFont _ | .setIndexBigFont _ | .saveFlags _ => false
  | .loadFlags _ | .setImm _ _ | .addImm _ _ | .random _ _ | .getDelay _ | .getKey _ => false
  | .set _ _ | .or _ _ | .and _ _ | .xor _ _ | .loadMemory _ | .add _ _ => false
  | .sub _ _ | .subReverse _ _ | .rightShift _ _ | .leftShift _ _ | .draw _ _ _ => false

/-- The table of R17: where an instruction that raises no error leaves `pc`, in terms of the state it executes in. -/
def Instr.pcAfter (i : Instr) (s : Machine.State) : Word :=
  match i with
  | .jump nnn | .call nnn => BitVec.ofNat 16 nnn.toNat
  | .ret => s.stack.headD s.pc
  | .jumpOffset nnn => BitVec.ofNat 16 (nnn.toNat + (s.reg 0).toNat)
  | .skipEqImm x nn => if s.reg x = nn then s.pc + 2 else s.pc
  | .skipNeImm x nn => if s.reg x = nn then s.pc else s.pc + 2
  | .skipEqReg x y => if s.reg x = s.reg y then s.pc + 2 else s.pc
  | .skipNeReg x y => if s.reg x = s.reg y then s.pc else s.pc + 2
  | .skipIfKey x => if s.keysDown[(s.reg x).toNat]? = some true then s.pc + 2 else s.pc
  | .skipIfNotKey x => if s.keysDown[(s.reg x).toNat]? = some false then s.pc + 2 else s.pc
  | .getKey _ => if s.keysReleased = Vector.replicate 16 false then s.pc - 2 else s.pc
  | .clearScreen | .scrollDown _ | .scrollRight | .scrollLeft | .exit | .lores | .hires => s.pc
  | .setImm _ _ | .addImm _ _ | .set _ _ | .or _ _ | .and _ _ | .xor _ _ | .add _ _ | .sub _ _ => s.pc
  | .rightShift _ _ | .subReverse _ _ | .leftShift _ _ | .random _ _ | .draw _ _ _ => s.pc
  | .setIndex _ | .addIndex _ | .setIndexFont _ | .setIndexBigFont _ => s.pc
  | .decimalConversion _ | .storeMemory _ | .loadMemory _ | .saveFlags _ | .loadFlags _ => s.pc
  | .getDelay _ | .setDelay _ | .setSound _ => s.pc

end Sys2Proof
end

