-- ==== Sys2Proof/Certificates/Slice0/Obligations.lean ====
section
/-! DEFINITION. The statements for the provers. Each docstring names the rule of spec/ it formalises; where a clause rests on
a decision the spec marks as its own (D<n>) or on a choice of the model (log <n>), it says so. -/

open Sys2Proof Sys2Proof.Machine

/-! ### Encoding (30_encoding.md) -/

/-- Decoding the word of an instruction gives it back, and decoding its bytes, high byte first, leaves the rest (R52, R53;
the byte order is D2). -/
def Obligations.DecodeOfEncodeIsTheInstruction : Prop :=
  ∀ (i : Instr) (rest : List Byte),
    decode (encode i) = .ok i ∧ decodeBytes (encodeBytes i ++ rest) = .ok (i, rest)

/-- A word that decodes to an instruction is that instruction's word: no bit of it is dropped (R52, R53). -/
def Obligations.EncodeOfDecodeIsTheWord : Prop :=
  ∀ (op : Word) (i : Instr), decode op = .ok i → encode i = op

/-- The words that decode to `UnknownOpcode` are exactly those of R55's list, which the spec derives from R53 and which rests
on D14 and D37; the error carries the raw word. -/
def Obligations.UnknownOpcodesAreTheListedWords : Prop :=
  ∀ op : Word,
    decode op = .error (.unknownOpcode op) ↔
      (op < 0x1000#16 ∧ op ≠ 0x00E0#16 ∧ op ≠ 0x00EE#16 ∧ ¬(0x00C0#16 ≤ op ∧ op ≤ 0x00CF#16) ∧
          ¬(0x00FB#16 ≤ op ∧ op ≤ 0x00FF#16)) ∨
        ((op >>> 12 = 0x5#16 ∨ op >>> 12 = 0x9#16) ∧ op &&& 0xF#16 ≠ 0) ∨
        (op >>> 12 = 0x8#16 ∧ op &&& 0xF#16 ∈ [0x8#16, 0x9#16, 0xA#16, 0xB#16, 0xC#16, 0xD#16, 0xF#16]) ∨
        (op >>> 12 = 0xE#16 ∧ op &&& 0xFF#16 ∉ [0x9E#16, 0xA1#16]) ∨
        (op >>> 12 = 0xF#16 ∧ op &&& 0xFF#16 ∉ [0x07#16, 0x0A#16, 0x15#16, 0x18#16, 0x1E#16, 0x29#16, 0x30#16,
          0x33#16, 0x55#16, 0x65#16, 0x75#16, 0x85#16])

/-- The words of the decode vectors S1 (its example) and E1 to E12 of 95_test_vectors.md decode as they should, and so does
`00E0` of vector S2 (R53, R55). -/
def Obligations.WordsOfTheTableDecode : Prop :=
  decode 0x00E0#16 = .ok .clearScreen ∧ decode 0x00EE#16 = .ok .ret ∧ decode 0x00C5#16 = .ok (.scrollDown 5) ∧
    decode 0x00C0#16 = .ok (.scrollDown 0) ∧ decode 0xB123#16 = .ok (.jumpOffset 0x123#12) ∧
    decode 0x8124#16 = .ok (.add 1 2) ∧ decode 0xD120#16 = .ok (.draw 1 2 0) ∧
    decode 0xF530#16 = .ok (.setIndexBigFont 5) ∧ decode 0x0123#16 = .error (.unknownOpcode 0x0123#16) ∧
    decode 0x00E1#16 = .error (.unknownOpcode 0x00E1#16) ∧ decode 0x5121#16 = .error (.unknownOpcode 0x5121#16) ∧
    decode 0x912F#16 = .error (.unknownOpcode 0x912F#16) ∧ decode 0x8008#16 = .error (.unknownOpcode 0x8008#16) ∧
    decode 0x800D#16 = .error (.unknownOpcode 0x800D#16) ∧ decode 0x800F#16 = .error (.unknownOpcode 0x800F#16) ∧
    decode 0xE09F#16 = .error (.unknownOpcode 0xE09F#16) ∧ decode 0xF000#16 = .error (.unknownOpcode 0xF000#16) ∧
    decode 0xFFFF#16 = .error (.unknownOpcode 0xFFFF#16)

/-! ### The step and the tick (40_execution_cycle.md) -/

/-- When the two bytes at `pc` decode to `i`, one step opens a tick if none is open, advances `pc` by 2, executes `i`, and counts
the step off the tick, which ends with `ok` after its last step or after `Exit` (R60, R65; D31, D41). Opening a tick touches the
timers, the keys and the tick's own fields alone, so `i` is what the state holds at `pc`. -/
def Obligations.StepRunsTheDecodedInstruction : Prop :=
  ∀ (s : State) (i : Instr), CanRun s → s.pc.toNat + 1 < 4096 → decode (s.fetchWord s.pc.toNat) = .ok i →
    step s = thenDo (exec i { openTick s with pc := s.pc + 2 }) closeStep ∧
    openTick s = { s with
      dt := (openTick s).dt, st := (openTick s).st
      keysDown := (openTick s).keysDown, keysReleased := (openTick s).keysReleased
      stepsLeft := (openTick s).stepsLeft, requests := (openTick s).requests, ticks := (openTick s).ticks } ∧
    (s.stepsLeft ≠ 0 → openTick s = s) ∧
    ∀ u, exec i { openTick s with pc := s.pc + 2 } = .next u →
      ∃ t, step s = .next t ∧ t = { u with stepsLeft := t.stepsLeft, result := t.result } ∧
        (u.stepsLeft = 0 → t.stepsLeft = 0 ∧ t.result = u.result) ∧
        (u.stepsLeft ≠ 0 → u.cfg.variant = .schip ∧ u.running = false → t.stepsLeft = 0 ∧ t.result = some .ok) ∧
        (u.stepsLeft ≠ 0 → ¬(u.cfg.variant = .schip ∧ u.running = false) →
          t.stepsLeft = u.stepsLeft - 1 ∧ t.result = if u.stepsLeft = 1 then some .ok else u.result)

/-- A fetch that would cross the end of memory is the fatal `OutOfMemory(fetch)`: `pc` is unchanged, the record has no opcode
and the address of the fetch, the tick ends with the error, and nothing else but the start of a tick changes (R59, whose
exact bound is D5; R122). -/
def Obligations.FetchPastMemoryHalts : Prop :=
  ∀ s : State, CanRun s → 4096 ≤ s.pc.toNat + 1 →
    ∃ t, step s = .next t ∧ AfterError ⟨.outOfMemory .fetch, none, s.pc⟩ (openTick s) t ∧ t.pc = s.pc ∧ t.halted = true

/-- A word that matches no row is the recoverable `UnknownOpcode`: the record holds the word and its address, `pc` has moved
past it, the tick ends with the error, the machine is not halted, and nothing else but the start of a tick changes, in either
variant (R55, R60, R126, R128; the state after it is D6). -/
def Obligations.UnknownOpcodeIsRecoverable : Prop :=
  ∀ s : State, CanRun s → s.pc.toNat + 1 < 4096 →
    decode (s.fetchWord s.pc.toNat) = .error (.unknownOpcode (s.fetchWord s.pc.toNat)) →
    ∃ t, step s = .next t ∧
      AfterError ⟨.unknownOpcode, some (s.fetchWord s.pc.toNat), s.pc⟩ { openTick s with pc := s.pc + 2 } t ∧
      t.halted = false

/-- An instruction is fetched as two bytes, the byte at the lower address being the high byte (R41; the order is D2). -/
def Obligations.FetchIsBigEndian : Prop :=
  ∀ (s : State) (a : Nat),
    (s.fetchWord a).toNat = 256 * (s.readByte a).toNat + (s.readByte (a + 1)).toNat

/-- While `halted` is 1, a tick answers `halted` and changes no state: no timer, no step; only the call itself is taken
(R27, R65, R125; D8, D49; how a call is taken is log 8). -/
def Obligations.HaltedTickChangesNothing : Prop :=
  ∀ s : State, s.halted = true →
    step s = .next { s with result := some .halted, requests := s.requests.tail, ticks := s.ticks + 1 }

/-- After `Exit` a tick of a SCHIP machine answers `ok` and changes no state; only the call itself is taken (R65, R78; D31;
log 8). -/
def Obligations.ExitedTickChangesNothing : Prop :=
  ∀ s : State, s.halted = false → s.cfg.variant = .schip → s.running = false →
    step s = .next { s with result := some .ok, requests := s.requests.tail, ticks := s.ticks + 1 }

/-- A step answers a next state for every state but one whose host breaks its duty on `SPEED`, and then it is refused by name
(R35, R141; D44; the refusal is the model's, log 10). The machine has no other way to stop. -/
def Obligations.StepAnswersUnlessSpeedIsNotPositive : Prop :=
  ∀ s : State,
    ((s.halted = true ∨ (s.cfg.variant = .schip ∧ s.running = false) ∨ 0 < s.cfg.speed) → ∃ t, step s = .next t) ∧
    ((s.halted = false ∧ (s.cfg.variant = .schip → s.running = true) ∧ s.cfg.speed ≤ 0) →
      step s = .refused .speedNotPositive)

/-- `DT <- sat_dec(DT); ST <- sat_dec(ST)` happens once, before the first step of a tick, and the timers change at no other
time except through `SetDelay` and `SetSound` (R63). -/
def Obligations.TimersMoveOnlyAtTickStart : Prop :=
  ∀ s : State, CanRun s →
    ∃ t, step s = .next t ∧
      (∀ x, s.pc.toNat + 1 < 4096 ∧ decode (s.fetchWord s.pc.toNat) = .ok (.setDelay x) → t.dt = s.reg x) ∧
      (¬(∃ x, s.pc.toNat + 1 < 4096 ∧ decode (s.fetchWord s.pc.toNat) = .ok (.setDelay x)) →
        t.dt = if s.stepsLeft = 0 ∧ s.dt ≠ 0 then s.dt - 1 else s.dt) ∧
      (∀ x, s.pc.toNat + 1 < 4096 ∧ decode (s.fetchWord s.pc.toNat) = .ok (.setSound x) → t.st = s.reg x) ∧
      (¬(∃ x, s.pc.toNat + 1 < 4096 ∧ decode (s.fetchWord s.pc.toNat) = .ok (.setSound x)) →
        t.st = if s.stepsLeft = 0 ∧ s.st ≠ 0 then s.st - 1 else s.st)

/-- The number of steps a tick may run is at least 1 and, when throttled, at most `ceil(SPEED / 60)`, and every number within
these bounds is the count of some draw (R64, whose bounds are D32; that another draw is brought within them is log 7). -/
def Obligations.TickStepCountIsWithinItsBounds : Prop :=
  ∀ (c : Config) (k : Nat), 0 < c.speed →
    1 ≤ tickSteps c k ∧
    (c.throttled = true → (tickSteps c k : Int) ≤ ⌈c.speed / 60⌉) ∧
    (1 ≤ k → (c.throttled = true → (k : Int) ≤ ⌈c.speed / 60⌉) → tickSteps c k = k)

/-- A tick runs at least one step and at most the number drawn for it, takes exactly one call of the host, and ends with `ok`
or with the error it records (R64, R65; D7, D32). -/
def Obligations.TickEndsWithinItsStepCount : Prop :=
  ∀ s : State, CanRun s → s.stepsLeft = 0 →
    ∃ (j : Nat) (t : State), 1 ≤ j ∧ j ≤ tickSteps s.cfg s.nextRequest.steps ∧ Sys2Proof.core.run j s = .next t ∧
      t.stepsLeft = 0 ∧ t.ticks = s.ticks + 1 ∧ t.requests = s.requests.tail ∧
      (t.result = some .ok ∨ ∃ e, t.result = some (.error e) ∧ t.lastError = some e) ∧
      ∀ i, 1 ≤ i → i < j → ∃ u, Sys2Proof.core.run i s = .next u ∧ 0 < u.stepsLeft ∧
        u.keysDown = s.nextRequest.keysDown ∧ u.keysReleased = s.nextRequest.keysReleased

/-- Between ticks the host sees the outputs, and inside a tick it sees nothing. A tick that runs, started while the host sees the
outputs, comes to an end at which it sees them again, with `display`, `sound_active`, `running` and `halted` of that state; at
no step between does it see anything, and no later step of the tick decrements the timers again. So it sees at most one frame
and one timer decrement for each tick (R34, R35, R67, R147, of which the spec derives R67 and R147; what stands for a tick
that is open is log 8). -/
def Obligations.HostSeesOnlyTickEnds : Prop :=
  (∀ s : State, s.stepsLeft ≠ 0 → s.hostView = none) ∧
  (∀ s : State, s.stepsLeft = 0 → ∃ view, s.hostView = some view ∧ view.display = s.display ∧
    (view.soundActive = true ↔ s.st ≠ 0) ∧
    (view.running = true ↔ s.cfg.variant = .chip8 ∨ s.running = true) ∧
    view.halted = s.halted ∧ view.result = s.result) ∧
  ∀ (s : State) (before : HostView), CanRun s → s.hostView = some before →
    ∃ (j : Nat) (t : State) (view : HostView), 1 ≤ j ∧ Sys2Proof.core.run j s = .next t ∧
      t.hostView = some view ∧ t.ticks = s.ticks + 1 ∧
      ∀ i, 1 ≤ i → i < j → ∃ u, Sys2Proof.core.run i s = .next u ∧ u.hostView = none ∧
        u.ticks = s.ticks + 1 ∧ openTick u = u

/-- A tick whose `keys_released` is all false and that starts at a `GetKey` spends all its steps on it: at its end `pc` and
the registers are as at its start, and the timers have been decremented once (R68, which the spec derives from R65 and
R106). -/
def Obligations.GetKeyWaitsThroughTheTick : Prop :=
  ∀ (s : State) (x : Reg), CanRun s → s.stepsLeft = 0 → s.pc.toNat + 1 < 4096 →
    decode (s.fetchWord s.pc.toNat) = .ok (.getKey x) →
    (∀ k : Fin 16, s.nextRequest.keysReleased[k] = false) →
    ∃ t, Sys2Proof.core.run (tickSteps s.cfg s.nextRequest.steps) s = .next t ∧ t.pc = s.pc ∧ t.v = s.v ∧
      t.stepsLeft = 0 ∧ t.result = some .ok ∧ t.ticks = s.ticks + 1 ∧
      t.dt = (if s.dt = 0 then 0 else s.dt - 1) ∧ t.st = (if s.st = 0 then 0 else s.st - 1) ∧ SameMemory s t

/-! ### Register arithmetic and logic (42_alu.md) -/

/-- `SetImm` and `Set` write `nn` and `V[y]` to `V[x]` and change nothing else (R80, R82). -/
def Obligations.SetInstructionsWriteOneRegister : Prop :=
  ∀ (s : State) (x y : Reg) (nn : Byte),
    decode (0x6#4 ++ BitVec.ofNat 4 x ++ nn) = .ok (.setImm x nn) ∧
    decode (0x8#4 ++ BitVec.ofNat 4 x ++ BitVec.ofNat 4 y ++ 0x0#4) = .ok (.set x y) ∧
    (∃ t, exec (.setImm x nn) s = .next t ∧ OnlyRegisters s t ∧ ∀ r, t.reg r = if r = x then nn else s.reg r) ∧
    (∃ t, exec (.set x y) s = .next t ∧ OnlyRegisters s t ∧ ∀ r, t.reg r = if r = x then s.reg y else s.reg r)

/-- `Add` writes the 8-bit sum to `V[x]` and then the carry to `VF`, so the carry wins when `x = F`; both operands are read
first (R86). -/
def Obligations.AddWritesSumThenCarry : Prop :=
  ∀ (s : State) (x y : Reg),
    decode (0x8#4 ++ BitVec.ofNat 4 x ++ BitVec.ofNat 4 y ++ 0x4#4) = .ok (.add x y) ∧
    ∃ t, exec (.add x y) s = .next t ∧ OnlyRegisters s t ∧
      ∀ r, t.reg r =
        if r = 15 then (if 256 ≤ (s.reg x).toNat + (s.reg y).toNat then 1 else 0)
        else if r = x then BitVec.ofNat 8 (((s.reg x).toNat + (s.reg y).toNat) % 256)
        else s.reg r

/-- `Sub` and `SubReverse` write `(l − r) mod 2^8` to `V[x]` and then NOT borrow to `VF` (R87, R88). -/
def Obligations.SubtractionsWriteDifferenceThenNotBorrow : Prop :=
  ∀ (s : State) (x y : Reg),
    decode (0x8#4 ++ BitVec.ofNat 4 x ++ BitVec.ofNat 4 y ++ 0x5#4) = .ok (.sub x y) ∧
    decode (0x8#4 ++ BitVec.ofNat 4 x ++ BitVec.ofNat 4 y ++ 0x7#4) = .ok (.subReverse x y) ∧
    (∃ t, exec (.sub x y) s = .next t ∧ OnlyRegisters s t ∧
      ∀ r, t.reg r =
        if r = 15 then (if (s.reg y).toNat ≤ (s.reg x).toNat then 1 else 0)
        else if r = x then BitVec.ofInt 8 ((s.reg x).toNat - (s.reg y).toNat)
        else s.reg r) ∧
    (∃ t, exec (.subReverse x y) s = .next t ∧ OnlyRegisters s t ∧
      ∀ r, t.reg r =
        if r = 15 then (if (s.reg x).toNat ≤ (s.reg y).toNat then 1 else 0)
        else if r = x then BitVec.ofInt 8 ((s.reg y).toNat - (s.reg x).toNat)
        else s.reg r)

/-- `AddImm`, `Or`, `And` and `Xor` write their result to `V[x]` and no flag: every other register, `VF` too, is unchanged
(R81, R83 to R85; that `VF` is left alone is D15 and D16). -/
def Obligations.FlaglessOperationsLeaveVF : Prop :=
  ∀ (s : State) (x y : Reg) (nn : Byte),
    (∃ t, exec (.addImm x nn) s = .next t ∧ OnlyRegisters s t ∧
      ∀ r, t.reg r = if r = x then BitVec.ofNat 8 (((s.reg x).toNat + nn.toNat) % 256) else s.reg r) ∧
    (∃ t, exec (.or x y) s = .next t ∧ OnlyRegisters s t ∧
      (∀ r, r ≠ x → t.reg r = s.reg r) ∧
      ∀ k, (t.reg x).getLsbD k = ((s.reg x).getLsbD k || (s.reg y).getLsbD k)) ∧
    (∃ t, exec (.and x y) s = .next t ∧ OnlyRegisters s t ∧
      (∀ r, r ≠ x → t.reg r = s.reg r) ∧
      ∀ k, (t.reg x).getLsbD k = ((s.reg x).getLsbD k && (s.reg y).getLsbD k)) ∧
    (∃ t, exec (.xor x y) s = .next t ∧ OnlyRegisters s t ∧
      (∀ r, r ≠ x → t.reg r = s.reg r) ∧
      ∀ k, (t.reg x).getLsbD k = ((s.reg x).getLsbD k ^^ (s.reg y).getLsbD k))

/-- The shifts halve and double the source and write the bit shifted out to `VF` last; the source is `Vy`, or `Vx` in a SCHIP
machine with `SCHIP_SHIFT_IN_PLACE` (R89, R90; the choice of source is the parameter of R10, D18). -/
def Obligations.ShiftsWriteResultThenBitShiftedOut : Prop :=
  ∀ (s : State) (x y : Reg) (src : Byte),
    src = (if s.cfg.variant = .schip ∧ s.cfg.shiftInPlace = true then s.reg x else s.reg y) →
    (∃ t, exec (.rightShift x y) s = .next t ∧ OnlyRegisters s t ∧
      ∀ r, t.reg r =
        if r = 15 then BitVec.ofNat 8 (src.toNat % 2)
        else if r = x then BitVec.ofNat 8 (src.toNat / 2)
        else s.reg r) ∧
    (∃ t, exec (.leftShift x y) s = .next t ∧ OnlyRegisters s t ∧
      ∀ r, t.reg r =
        if r = 15 then BitVec.ofNat 8 (src.toNat / 128)
        else if r = x then BitVec.ofNat 8 (2 * src.toNat % 256)
        else s.reg r)

/-- `Random` writes the drawn byte AND `nn` to `V[x]`, so no bit outside the mask is set, and uses up one draw; nothing else
changes. It holds whatever the draw is (R91; that the byte is a draw with no law is D33, its form here log 5). -/
def Obligations.RandomIsMaskedDraw : Prop :=
  ∀ (s : State) (x : Reg) (nn : Byte),
    ∃ t, exec (.random x nn) s = .next t ∧ t = { s with v := t.v, draws := s.draws + 1 } ∧ SameMemory s t ∧
      (∀ r, t.reg r = if r = x then Config.randomDraw s.draws &&& nn else s.reg r) ∧
      t.reg x &&& ~~~nn = 0

/-! ### Control flow (41_control_flow.md) -/

/-- `Jump` sets `pc` to its target and changes nothing else; no target is refused, and `0xFFF` makes the next fetch fail
(R69). -/
def Obligations.JumpSetsPc : Prop :=
  ∀ (s : State) (nnn : Addr12),
    decode (0x1#4 ++ nnn) = .ok (.jump nnn) ∧
    ∃ t, exec (.jump nnn) s = .next t ∧ OnlyPc s t ∧ t.pc.toNat = nnn.toNat ∧
      (nnn = 0xFFF#12 → fetchFails t = true)

/-- `Return` pops the most recent return address into `pc`, and on an empty stack raises the fatal `StackUnderflow`, whose
record holds the opcode `00EE` and the address of the instruction (R71). -/
def Obligations.ReturnPopsOrUnderflows : Prop :=
  decode 0x00EE#16 = .ok .ret ∧
  ∀ s : State,
    (∀ (a : Word) (rest : List Word), s.stack = a :: rest →
      ∃ t, exec .ret s = .next t ∧ t = { s with pc := a, stack := rest } ∧ SameMemory s t) ∧
    (s.stack = [] →
      ∃ t, exec .ret s = .next t ∧ AfterError ⟨.stackUnderflow, some 0x00EE#16, s.pc - 2⟩ s t ∧ t.halted = true)

/-- `Call` pushes `pc`, which is its own address + 2, and jumps; on a full stack it raises the fatal `StackOverflow` and pushes
nothing (R70; the bound and the error are D9). Its premise on the depth is part of the machine's invariant. -/
def Obligations.CallPushesOrOverflows : Prop :=
  ∀ (s : State) (nnn : Addr12), s.stack.length ≤ s.cfg.stackDepth →
    (s.stack.length ≠ s.cfg.stackDepth →
      ∃ t, exec (.call nnn) s = .next t ∧ t = { s with pc := t.pc, stack := s.pc :: s.stack } ∧
        t.pc.toNat = nnn.toNat ∧ SameMemory s t) ∧
    (s.stack.length = s.cfg.stackDepth →
      ∃ t, exec (.call nnn) s = .next t ∧ AfterError ⟨.stackOverflow, some (0x2#4 ++ nnn), s.pc - 2⟩ s t ∧
        t.halted = true)

/-- A `Return` after a `Call` that did not overflow comes back to the instruction after the call, with the stack as it was
(R16, R70, R71). -/
def Obligations.ReturnUndoesCall : Prop :=
  ∀ (s : State) (nnn : Addr12), s.stack.length < s.cfg.stackDepth →
    ∃ t u, exec (.call nnn) s = .next t ∧ exec .ret t = .next u ∧ u = s

/-- `JumpOffset` sets `pc` to `nnn + V0`, at most `0x10FE`, in both variants (R72; that a target past memory faults only at
the next fetch is D50). -/
def Obligations.JumpOffsetAddsV0 : Prop :=
  ∀ (s : State) (nnn : Addr12),
    ∃ t, exec (.jumpOffset nnn) s = .next t ∧ OnlyPc s t ∧ t.pc.toNat = nnn.toNat + (s.reg 0).toNat ∧
      t.pc.toNat ≤ 0x10FE

/-- The four skips add 2 to `pc` exactly when their condition holds and change nothing else (R74 to R77; which opcode skips on
which condition is D13, from general knowledge). -/
def Obligations.SkipsAddTwoWhenTheirConditionHolds : Prop :=
  ∀ (s : State) (x y : Reg) (nn : Byte),
    (∃ t, exec (.skipEqImm x nn) s = .next t ∧ OnlyPc s t ∧ t.pc = if s.reg x = nn then s.pc + 2 else s.pc) ∧
    (∃ t, exec (.skipNeImm x nn) s = .next t ∧ OnlyPc s t ∧ t.pc = if s.reg x = nn then s.pc else s.pc + 2) ∧
    (∃ t, exec (.skipEqReg x y) s = .next t ∧ OnlyPc s t ∧ t.pc = if s.reg x = s.reg y then s.pc + 2 else s.pc) ∧
    (∃ t, exec (.skipNeReg x y) s = .next t ∧ OnlyPc s t ∧ t.pc = if s.reg x = s.reg y then s.pc else s.pc + 2)

/-- In SCHIP `Exit` clears `running` and changes nothing else, and the step that ran it ends the tick with the result `ok`
(R65, R78; the end of the tick is D31). -/
def Obligations.ExitClearsRunningAndEndsTheTick : Prop :=
  ∀ s : State, s.cfg.variant = .schip →
    (∃ t, exec .exit s = .next t ∧ t = { s with running := false } ∧ SameMemory s t) ∧
    (CanRun s → s.pc.toNat + 1 < 4096 → s.fetchWord s.pc.toNat = 0x00FD#16 →
      ∃ t, step s = .next t ∧ t.running = false ∧ t.stepsLeft = 0 ∧ t.result = some .ok ∧ t.pc = s.pc + 2)

/-! ### Index register, fonts and memory (43_index_memory.md) -/

/-- `SetIndex` sets `I` to its address and changes nothing else (R92). -/
def Obligations.SetIndexLoadsAddress : Prop :=
  ∀ (s : State) (nnn : Addr12),
    decode (0xA#4 ++ nnn) = .ok (.setIndex nnn) ∧
    ∃ t, exec (.setIndex nnn) s = .next t ∧ OnlyIndex s t ∧ t.index.toNat = nnn.toNat

/-- `SetIndexFont` sets `I` to the address of the 5-byte glyph of the low nibble of `V[x]`, and reads no memory (R94). The value
is given where it fits `I`, as it does for every font inside memory. -/
def Obligations.SetIndexFontPointsAtGlyph : Prop :=
  ∀ (s : State) (x : Reg),
    decode (0xF#4 ++ BitVec.ofNat 4 x ++ 0x29#8) = .ok (.setIndexFont x) ∧
    ∃ t, exec (.setIndexFont x) s = .next t ∧ OnlyIndex s t ∧
      (s.cfg.fontBase + 80 ≤ 65536 → t.index.toNat = s.cfg.fontBase + 5 * ((s.reg x).toNat % 16))

/-- In SCHIP `SetIndexBigFont` sets `I` to the address of the 10-byte glyph of the low nibble of `V[x]` (R95; the base and the 16
glyphs are D22). -/
def Obligations.SetIndexBigFontPointsAtGlyph : Prop :=
  ∀ (s : State) (x : Reg), s.cfg.variant = .schip →
    ∃ t, exec (.setIndexBigFont x) s = .next t ∧ OnlyIndex s t ∧
      (s.cfg.bigFontBase + 160 ≤ 65536 → t.index.toNat = s.cfg.bigFontBase + 10 * ((s.reg x).toNat % 16))

/-- `AddIndex` adds `V[x]` to `I` modulo `2^16` and changes nothing else, `VF` included (R93; the wrap and the untouched `VF`
are D11). -/
def Obligations.AddIndexWrapsAtSixteenBits : Prop :=
  ∀ (s : State) (x : Reg),
    ∃ t, exec (.addIndex x) s = .next t ∧ OnlyIndex s t ∧
      t.index.toNat = (s.index.toNat + (s.reg x).toNat) % 65536

/-- When its three bytes exist, `DecimalConversion` writes hundreds, tens and units of `V[x]` to `I`, `I+1` and `I+2`, and
changes nothing else (R96; the order of the digits is D54, from general knowledge). The canonical form of memory is part of the
machine's invariant. -/
def Obligations.DecimalConversionWritesDigits : Prop :=
  ∀ (s : State) (x : Reg), Memory.wf s.cfg s.mem → s.index.toNat + 2 < 4096 →
    ∃ t, exec (.decimalConversion x) s = .next t ∧ OnlyBytes s.index.toNat 3 s t ∧
      (t.readByte s.index.toNat).toNat = (s.reg x).toNat / 100 ∧
      (t.readByte (s.index.toNat + 1)).toNat = (s.reg x).toNat / 10 % 10 ∧
      (t.readByte (s.index.toNat + 2)).toNat = (s.reg x).toNat % 10

/-- When its bytes exist, `StoreMemory` writes `V0..=Vx` to memory from `I`, and changes nothing else, `I` included (R97; that
`I` is unchanged is D12). -/
def Obligations.StoreMemoryWritesRegisters : Prop :=
  ∀ (s : State) (x : Reg), Memory.wf s.cfg s.mem → s.index.toNat + x.val < 4096 →
    ∃ t, exec (.storeMemory x) s = .next t ∧ OnlyBytes s.index.toNat (x.val + 1) s t ∧
      ∀ r : Reg, r ≤ x → t.readByte (s.index.toNat + r.val) = s.reg r

/-- When its bytes exist, `LoadMemory` reads `V0..=Vx` from memory at `I`, and changes nothing else: registers above `x`, `I`
and memory are unchanged (R98; that `I` is unchanged is D12). -/
def Obligations.LoadMemoryReadsRegisters : Prop :=
  ∀ (s : State) (x : Reg), s.index.toNat + x.val < 4096 →
    ∃ t, exec (.loadMemory x) s = .next t ∧ OnlyRegisters s t ∧
      ∀ r : Reg, t.reg r = if r ≤ x then s.readByte (s.index.toNat + r.val) else s.reg r

/-- `LoadMemory` after `StoreMemory` of the same registers gives them back (R46, R97, R98). -/
def Obligations.LoadAfterStoreRestoresRegisters : Prop :=
  ∀ (s : State) (x : Reg) (v : Vector Byte 16), Memory.wf s.cfg s.mem → s.index.toNat + x.val < 4096 →
    ∃ t u, exec (.storeMemory x) s = .next t ∧ exec (.loadMemory x) { t with v := v } = .next u ∧
      ∀ r : Reg, r ≤ x → u.reg r = s.reg r

/-- An access through `I` that leaves memory raises the fatal `OutOfMemory(data)` before anything is written: no byte, register
or pixel changes (R44, R110; the check and its error are D10 and D24). The record holds the instruction's word and address. -/
def Obligations.DataAccessPastMemoryHalts : Prop :=
  ∀ (s : State) (x y : Reg) (n : Nibble),
    (4096 ≤ s.index.toNat + 2 → ∃ t, exec (.decimalConversion x) s = .next t ∧ t.halted = true ∧
      AfterError ⟨.outOfMemory .data, some (0xF#4 ++ BitVec.ofNat 4 x ++ 0x33#8), s.pc - 2⟩ s t) ∧
    (4096 ≤ s.index.toNat + x.val →
      (∃ t, exec (.storeMemory x) s = .next t ∧ t.halted = true ∧
        AfterError ⟨.outOfMemory .data, some (0xF#4 ++ BitVec.ofNat 4 x ++ 0x55#8), s.pc - 2⟩ s t) ∧
      (∃ t, exec (.loadMemory x) s = .next t ∧ t.halted = true ∧
        AfterError ⟨.outOfMemory .data, some (0xF#4 ++ BitVec.ofNat 4 x ++ 0x65#8), s.pc - 2⟩ s t)) ∧
    (∀ count : Nat,
      count = (if n ≠ 0 then n.toNat else if s.cfg.variant = .schip ∧ s.hires = true then 32 else 0) →
      0 < count → 4096 ≤ s.index.toNat + count - 1 →
      ∃ t, exec (.draw x y n) s = .next t ∧ t.halted = true ∧
        AfterError ⟨.outOfMemory .data, some (0xD#4 ++ BitVec.ofNat 4 x ++ BitVec.ofNat 4 y ++ n), s.pc - 2⟩ s t)

/-- In SCHIP `SaveFlags` and `LoadFlags` change nothing (R99, R100). -/
def Obligations.FlagPlaceholdersDoNothing : Prop :=
  ∀ (s : State) (x : Reg), s.cfg.variant = .schip →
    exec (.saveFlags x) s = .next s ∧ exec (.loadFlags x) s = .next s

/-- A word stored by `StoreMemory` is the word the next fetch at that address reads, with no fence between (R48, R145; D42). -/
def Obligations.StoredWordIsFetched : Prop :=
  ∀ (s : State) (x r q : Reg), Memory.wf s.cfg s.mem → s.index.toNat + x.val < 4096 → q.val = r.val + 1 → q ≤ x →
    ∃ t, exec (.storeMemory x) s = .next t ∧
      (t.fetchWord (s.index.toNat + r.val)).toNat = 256 * (s.reg r).toNat + (s.reg q).toNat

/-! ### Timers and keys (44_timers_keys.md) -/

/-- `GetDelay` reads `DT` into `V[x]`, `SetDelay` and `SetSound` write `V[x]` to `DT` and `ST`; nothing else changes (R101 to
R103; their numbers in the `F` group are general knowledge, D43). -/
def Obligations.TimerInstructionsMoveOneByte : Prop :=
  ∀ (s : State) (x : Reg),
    (∃ t, exec (.getDelay x) s = .next t ∧ OnlyRegisters s t ∧ ∀ r, t.reg r = if r = x then s.dt else s.reg r) ∧
    (∃ t, exec (.setDelay x) s = .next t ∧ t = { s with dt := s.reg x } ∧ SameMemory s t) ∧
    (∃ t, exec (.setSound x) s = .next t ∧ t = { s with st := s.reg x } ∧ SameMemory s t ∧
      (t.soundActive = true ↔ s.reg x ≠ 0))

/-- The key skips read `keys_down` at `V[x]` and skip when the key is down, or is not; for `V[x] > 15` they raise the fatal
`KeyOutOfRange` (R104, R105; the vector read and the error are D19). -/
def Obligations.KeySkipsReadKeysDown : Prop :=
  ∀ (s : State) (x : Reg),
    (∀ k : Fin 16, (s.reg x).toNat = k.val →
      (∃ t, exec (.skipIfKey x) s = .next t ∧ OnlyPc s t ∧
        t.pc = if s.keysDown[k] = true then s.pc + 2 else s.pc) ∧
      (∃ t, exec (.skipIfNotKey x) s = .next t ∧ OnlyPc s t ∧
        t.pc = if s.keysDown[k] = true then s.pc else s.pc + 2)) ∧
    (15 < (s.reg x).toNat →
      (∃ t, exec (.skipIfKey x) s = .next t ∧ t.halted = true ∧
        AfterError ⟨.keyOutOfRange, some (0xE#4 ++ BitVec.ofNat 4 x ++ 0x9E#8), s.pc - 2⟩ s t) ∧
      (∃ t, exec (.skipIfNotKey x) s = .next t ∧ t.halted = true ∧
        AfterError ⟨.keyOutOfRange, some (0xE#4 ++ BitVec.ofNat 4 x ++ 0xA1#8), s.pc - 2⟩ s t))

/-- With a key released, `GetKey` writes the lowest released index to `V[x]` and does not consume the release; with none, it
moves `pc` back by 2 to itself and writes nothing (R106; the lowest index is D20, no consumption D53). -/
def Obligations.GetKeyTakesLowestOrRewinds : Prop :=
  ∀ (s : State) (x : Reg),
    (∀ k : Fin 16, s.keysReleased[k] = true → (∀ j : Fin 16, j < k → s.keysReleased[j] = false) →
      ∃ t, exec (.getKey x) s = .next t ∧ OnlyRegisters s t ∧
        ∀ r, t.reg r = if r = x then BitVec.ofNat 8 k.val else s.reg r) ∧
    ((∀ k : Fin 16, s.keysReleased[k] = false) →
      ∃ t, exec (.getKey x) s = .next t ∧ OnlyPc s t ∧ t.pc = s.pc - 2)

/-! ### Display (45_display.md) -/

/-- `ClearScreen` makes every pixel 0 and changes nothing else (R107; the whole grid in either mode is D52). -/
def Obligations.ClearScreenZeroesEveryPixel : Prop :=
  ∀ s : State, ∃ t, exec .clearScreen s = .next t ∧ OnlyFramebuffer s t ∧ ∀ px py, t.pixel px py = false

/-- When its sprite bytes exist, `Draw` toggles exactly the unclipped pixels that set sprite pixels paint, and no other; `VF`
ends as 1 exactly when one of them was 1. The geometry is that of R109, the sprite's bytes and bits those of R108
(R108, R109, R111 to R115; bit order D25, lo-res D27, the flag D23, `n = 0` D26). -/
def Obligations.DrawTogglesExactlyTheCoveredPixels : Prop :=
  ∀ (s : State) (x y : Reg) (n : Nibble) (g : Geometry),
    g = (match s.cfg.variant, s.hires with
      | .chip8, _ => ⟨64, 32, 1, 8, n.toNat, 1, (s.reg x).toNat % 64, (s.reg y).toNat % 32⟩
      | .schip, true =>
        if n = 0 then ⟨128, 64, 1, 16, 16, 2, (s.reg x).toNat % 128, (s.reg y).toNat % 64⟩
        else ⟨128, 64, 1, 8, n.toNat, 1, (s.reg x).toNat % 128, (s.reg y).toNat % 64⟩
      | .schip, false =>
        ⟨128, 64, 2, 8, n.toNat, 1, 2 * ((s.reg x).toNat % 64), 2 * ((s.reg y).toNat % 32)⟩) →
    (g.height * g.bytesPerRow = 0 ∨ s.index.toNat + g.height * g.bytesPerRow - 1 < 4096) →
    ∃ t, exec (.draw x y n) s = .next t ∧ t = { s with fb := t.fb, v := t.v } ∧ SameMemory s t ∧
      (∀ px py, SpriteCovers s g px py → t.pixel px py = !s.pixel px py) ∧
      (∀ px py, ¬SpriteCovers s g px py → t.pixel px py = s.pixel px py) ∧
      (∀ r, r ≠ 15 → t.reg r = s.reg r) ∧
      (t.reg 15 = 0 ∨ t.reg 15 = 1) ∧
      (t.reg 15 = 1 ↔ ∃ px py, SpriteCovers s g px py ∧ s.pixel px py = true)

/-- Drawing the same sprite twice at the same place gives the framebuffer back, where neither coordinate register is `VF`
(R111, R113). -/
def Obligations.DrawingTwiceRestoresTheFramebuffer : Prop :=
  ∀ (s : State) (x y : Reg) (n : Nibble), x ≠ 15 → y ≠ 15 → s.index.toNat + 32 ≤ 4096 →
    ∃ t u, exec (.draw x y n) s = .next t ∧ exec (.draw x y n) t = .next u ∧ u.fb = s.fb

/-- In SCHIP `Hires` sets `hires` and `Lores` clears it; neither touches the framebuffer or anything else (R116, R117; set and
clear, not toggle, is D29). -/
def Obligations.ModeInstructionsSetAndClearHires : Prop :=
  ∀ s : State, s.cfg.variant = .schip →
    (∃ t, exec .hires s = .next t ∧ t = { s with hires := true } ∧ SameMemory s t) ∧
    (∃ t, exec .lores s = .next t ∧ t = { s with hires := false } ∧ SameMemory s t)

/-- In SCHIP `ScrollLeft` moves every pixel left by 4 columns in hi-res and 8 in lo-res, fills the vacated columns with 0, and
changes nothing else; nothing wraps (R121). -/
def Obligations.ScrollLeftMovesEveryPixel : Prop :=
  decode 0x00FC#16 = .ok .scrollLeft ∧
  ∀ s : State, s.cfg.variant = .schip →
    ∃ t, exec .scrollLeft s = .next t ∧ OnlyFramebuffer s t ∧
      ∀ px py, px < 128 → py < 64 → t.pixel px py =
        if px + (if s.hires = true then 4 else 8) < 128 then s.pixel (px + (if s.hires = true then 4 else 8)) py
        else false

/-- In SCHIP `ScrollDown` and `ScrollRight` move every pixel by the hi-res distance, doubled in lo-res, fill what they vacate
with 0, and change nothing else; nothing wraps (R118 to R120; the directions and `n = 0` are D30). -/
def Obligations.ScrollsDownAndRightMoveEveryPixel : Prop :=
  ∀ (s : State) (n : Nibble), s.cfg.variant = .schip →
    (∃ t, exec (.scrollDown n) s = .next t ∧ OnlyFramebuffer s t ∧
      ∀ px py, px < 128 → py < 64 → t.pixel px py =
        if (if s.hires = true then n.toNat else 2 * n.toNat) ≤ py
        then s.pixel px (py - (if s.hires = true then n.toNat else 2 * n.toNat)) else false) ∧
    (∃ t, exec .scrollRight s = .next t ∧ OnlyFramebuffer s t ∧
      ∀ px py, px < 128 → py < 64 → t.pixel px py =
        if (if s.hires = true then 4 else 8) ≤ px then s.pixel (px - (if s.hires = true then 4 else 8)) py else false)

/-! ### Errors (60_exceptions.md) and the variant gate (R56) -/

/-- CHIP8 rejects the nine SCHIP-only instructions with the recoverable `VariantMismatch` and no other effect, whatever their
operands, and no instruction raises it otherwise (R56, R126, R128; `SaveFlags` and `LoadFlags` among the nine is D36). -/
def Obligations.VariantMismatchExactlyForSchipOnly : Prop :=
  ∀ (i : Instr) (s : State),
    (i.validFor s.cfg.variant = false →
      ∃ t, exec i s = .next t ∧ AfterError ⟨.variantMismatch, some (encode i), s.pc - 2⟩ s t ∧ t.halted = s.halted) ∧
    (i.validFor s.cfg.variant = true →
      ∃ t, exec i s = .next t ∧ (t.lastError = s.lastError ∨
        ∃ e, t.lastError = some e ∧ e.kind ≠ .variantMismatch ∧ e.kind ≠ .unknownOpcode))

/-- Executing an instruction either raises no error, and then leaves the error state and the tick alone, or raises exactly one,
whose record holds its word and its address, and then changes nothing else (R124, R126, R128; D6, D10, D46). -/
def Obligations.ErrorsArePrecise : Prop :=
  ∀ (i : Instr) (s : State), ∃ t, exec i s = .next t ∧
    ((t.lastError = s.lastError ∧ t.halted = s.halted ∧ t.result = s.result ∧ t.stepsLeft = s.stepsLeft) ∨
      ∃ e, AfterError e s t ∧ e.opcode = some (encode i) ∧ e.address = s.pc - 2 ∧
        e.kind ≠ .unknownOpcode ∧ e.kind ≠ .outOfMemory .fetch)

/-! ### Rules over all instructions -/

/-- Exactly the flag-writing instructions write `VF` as a side effect; each leaves 0 or 1 in it, also when `x = F`, unless it
raises an error; any other instruction changes `VF`, as any register, only where it is its destination (R15, R142). -/
def Obligations.OnlyFlagWritersWriteVF : Prop :=
  ∀ (i : Instr) (s t : State), exec i s = .next t →
    (i.writesFlag = false → ¬i.writesRegister 15 → t.reg 15 = s.reg 15) ∧
    (i.writesFlag = true → t.reg 15 = 0 ∨ t.reg 15 = 1 ∨ ∃ e, AfterError e s t) ∧
    (∀ r, r ≠ 15 → ¬i.writesRegister r → t.reg r = s.reg r)

/-- Only `DecimalConversion` and `StoreMemory` store to memory; after any other instruction every byte reads as before
(R29, R43, R44). -/
def Obligations.OnlyStoringInstructionsChangeMemory : Prop :=
  ∀ (i : Instr) (s t : State), exec i s = .next t → i.stores = false → SameMemory s t

/-- Each piece of state outside registers and memory is changed only by its own instructions: `I` by four, the stack by `Call`
and `Return`, `DT` and `ST` by `SetDelay` and `SetSound`, `hires` by `Hires` and `Lores`, `running` by `Exit`, the framebuffer
by `ClearScreen`, `Draw` and the scrolls; the keys and the configuration by none (R3, R21 to R26, R32; that four instructions
leave `I` is D12). -/
def Obligations.StateIsChangedOnlyByItsInstructions : Prop :=
  ∀ (i : Instr) (s t : State), exec i s = .next t →
    (t.index = s.index ∨ ∃ x nnn, i = .setIndex nnn ∨ i = .addIndex x ∨ i = .setIndexFont x ∨ i = .setIndexBigFont x) ∧
    (t.stack = s.stack ∨ i = .ret ∨ ∃ nnn, i = .call nnn) ∧
    (t.dt = s.dt ∨ ∃ x, i = .setDelay x) ∧ (t.st = s.st ∨ ∃ x, i = .setSound x) ∧
    (t.hires = s.hires ∨ i = .hires ∨ i = .lores) ∧ (t.running = s.running ∨ i = .exit) ∧
    (t.fb = s.fb ∨ i = .clearScreen ∨ i = .scrollRight ∨ i = .scrollLeft ∨
      (∃ n, i = .scrollDown n) ∨ ∃ x y n, i = .draw x y n) ∧
    t.keysDown = s.keysDown ∧ t.keysReleased = s.keysReleased ∧ t.cfg = s.cfg ∧ t.requests = s.requests ∧
    t.ticks = s.ticks

/-- Every instruction leaves `pc` where R17's table says, unless it raises an error, and then leaves it at `a + 2`, which is
`pc` while it executes (R17, which the spec derives from R16 and the family rules). -/
def Obligations.PcAfterEveryInstruction : Prop :=
  ∀ (i : Instr) (s t : State), exec i s = .next t →
    t.pc = i.pcAfter s ∨ (t.pc = s.pc ∧ ∃ e, AfterError e s t ∧ e.opcode = some (encode i))

/-- The key inputs reach only the three key instructions: two states that differ in the keys alone execute any other
instruction to states that differ in the keys alone (R32, R61; D38). -/
def Obligations.KeysReachOnlyKeyInstructions : Prop :=
  ∀ (i : Instr) (s t : State) (down released : KeyVector),
    (∀ x, i ≠ .skipIfKey x ∧ i ≠ .skipIfNotKey x ∧ i ≠ .getKey x) → exec i s = .next t →
    exec i { s with keysDown := down, keysReleased := released } =
      .next { t with keysDown := down, keysReleased := released }

/-! ### The invariant, and reset -/

/-- Every step keeps the machine's invariant, and no step changes the configuration (R3, R8, R19, R22, R24 to R27, R64, R122;
the canonical form of memory is log 3). -/
def Obligations.StepKeepsTheInvariant : Prop :=
  ∀ s t : State, s.Inv → step s = .next t → t.Inv ∧ t.cfg = s.cfg

/-- Every state built for an image, and so the reset state, meets the invariant, and an image over 3584 bytes builds none
(R36, R40; D34). -/
def Obligations.ConstructionMeetsTheInvariant : Prop :=
  State.reset.Inv ∧
  ∀ (c : Config) (image : List Byte),
    (image.length ≤ 3584 → ∃ s, construct c image = some s ∧ s.Inv) ∧
    (3584 < image.length → construct c image = none)

/-- What construction leaves: registers, `I` and timers 0, `pc` at `0x200`, the stack empty, every pixel 0, lo-res, running,
not halted, no error; the image from `0x200`, and elsewhere what construction puts there (R36, R138; `running` is D40,
`halted` D8). That no step of a tick is left, so that no tick is open, is the model's own choice (log 16): R36 gives the steps
left no value. That the configuration is the one asked for is log 1. -/
def Obligations.ConstructionValues : Prop :=
  ∀ (c : Config) (image : List Byte), image.length ≤ 3584 →
    ∃ s, construct c image = some s ∧ s.cfg = c ∧ (∀ r, s.reg r = 0) ∧ s.pc = 0x200 ∧ s.index = 0 ∧ s.stack = [] ∧
      s.dt = 0 ∧ s.st = 0 ∧ (∀ px py, s.pixel px py = false) ∧ s.hires = false ∧ s.running = true ∧
      s.halted = false ∧ s.lastError = none ∧ s.stepsLeft = 0 ∧
      (∀ j : Nat, j < image.length → s.readByte (0x200 + j) = image[j]?.getD 0) ∧
      ∀ a, a < 0x200 ∨ 0x200 + image.length ≤ a → s.readByte a = c.byteAtReset a

/-- With the default parameters, byte `j` of glyph `g` is at `0x050 + 5g + j`, in SCHIP byte `j` of big glyph `g` at
`0x0A0 + 10g + j`, and every other byte is 0 (R30, R31, R36, R38; bases and bytes are the spec's defaults, D21, D22). -/
def Obligations.FontsAreInMemoryAtReset : Prop :=
  (∀ (v : Variant) (g : Fin 16) (j : Fin 5),
    (Config.standard v).byteAtReset (0x050 + 5 * g.val + j.val) = defaultFont[g][j]) ∧
  (∀ (g : Fin 16) (j : Fin 10),
    (Config.standard .schip).byteAtReset (0x0A0 + 10 * g.val + j.val) = defaultBigFont[g][j]) ∧
  (∀ a, a < 0x050 ∨ 0x140 ≤ a → ∀ v, (Config.standard v).byteAtReset a = 0) ∧
  (∀ a, 0x0A0 ≤ a → (Config.standard .chip8).byteAtReset a = 0)
end

