-- ==== Sys2Proof/Laws/Decode.lean ====
section
/-! SUPPORT. The decoder and the encoder: the fields of an encoded word, a word from its fields, a word from its bytes. -/

namespace Sys2Proof

/-! ### A register number and its field -/

@[simp] theorem regField_toFin (r : Reg) : (regField r).toFin = r := rfl

@[simp] theorem regField_of_toFin (b : Nibble) : regField b.toFin = b := rfl

theorem regField_eq_ofNat (r : Reg) : regField r = BitVec.ofNat 4 r.val := by
  apply BitVec.eq_of_toNat_eq; simp [regField]

/-- The patterns written out with their register fields. -/
theorem xy_eq_encodeXY (g s : Nibble) (x y : Reg) :
    (g ++ BitVec.ofNat 4 x.val ++ BitVec.ofNat 4 y.val ++ s : Word) = encodeXY g x y s := by
  rw [encodeXY, regField_eq_ofNat, regField_eq_ofNat]

theorem xnn_eq_encodeXNN (g : Nibble) (x : Reg) (nn : Byte) :
    (g ++ BitVec.ofNat 4 x.val ++ nn : Word) = encodeXNN g x nn := by
  rw [encodeXNN, regField_eq_ofNat]

/-! ### The fields of an encoded word -/

@[simp] theorem fieldGroup_encodeXY (g s : Nibble) (x y : Reg) : fieldGroup (encodeXY g x y s) = g := by
  unfold fieldGroup encodeXY; ext i hi; simp; grind

@[simp] theorem fieldX_encodeXY (g s : Nibble) (x y : Reg) : fieldX (encodeXY g x y s) = x := by
  have h : (encodeXY g x y s).extractLsb' 8 4 = regField x := by unfold encodeXY; ext i hi; simp; grind
  rw [fieldX, h, regField_toFin]

@[simp] theorem fieldY_encodeXY (g s : Nibble) (x y : Reg) : fieldY (encodeXY g x y s) = y := by
  have h : (encodeXY g x y s).extractLsb' 4 4 = regField y := by unfold encodeXY; ext i hi; simp; grind
  rw [fieldY, h, regField_toFin]

@[simp] theorem fieldN_encodeXY (g s : Nibble) (x y : Reg) : fieldN (encodeXY g x y s) = s := by
  unfold fieldN encodeXY; ext i hi; simp; grind

@[simp] theorem fieldGroup_encodeXNN (g : Nibble) (x : Reg) (nn : Byte) : fieldGroup (encodeXNN g x nn) = g := by
  unfold fieldGroup encodeXNN; ext i hi; simp; grind

@[simp] theorem fieldX_encodeXNN (g : Nibble) (x : Reg) (nn : Byte) : fieldX (encodeXNN g x nn) = x := by
  have h : (encodeXNN g x nn).extractLsb' 8 4 = regField x := by unfold encodeXNN; ext i hi; simp; grind
  rw [fieldX, h, regField_toFin]

@[simp] theorem fieldNN_encodeXNN (g : Nibble) (x : Reg) (nn : Byte) : fieldNN (encodeXNN g x nn) = nn := by
  unfold fieldNN encodeXNN; ext i hi; simp; grind

@[simp] theorem fieldGroup_encodeNNN (g : Nibble) (nnn : Addr12) : fieldGroup (encodeNNN g nnn) = g := by
  unfold fieldGroup encodeNNN; ext i hi; simp; grind

@[simp] theorem fieldNNN_encodeNNN (g : Nibble) (nnn : Addr12) : fieldNNN (encodeNNN g nnn) = nnn := by
  unfold fieldNNN encodeNNN; ext i hi; simp; grind

/-! ### A word from its fields -/

theorem encodeXY_fields (op : Word) : encodeXY (fieldGroup op) (fieldX op) (fieldY op) (fieldN op) = op := by
  have hx : regField (fieldX op) = op.extractLsb' 8 4 := rfl
  have hy : regField (fieldY op) = op.extractLsb' 4 4 := rfl
  unfold encodeXY fieldGroup fieldN
  rw [hx, hy]; ext i hi; simp; grind

theorem encodeXNN_fields (op : Word) : encodeXNN (fieldGroup op) (fieldX op) (fieldNN op) = op := by
  have hx : regField (fieldX op) = op.extractLsb' 8 4 := rfl
  unfold encodeXNN fieldGroup fieldNN
  rw [hx]; ext i hi; simp; grind

theorem encodeNNN_fields (op : Word) : encodeNNN (fieldGroup op) (fieldNNN op) = op := by
  unfold encodeNNN fieldGroup fieldNNN
  ext i hi; simp; grind

/-! ### Bytes of a word -/

@[simp] theorem wordOfBytes_bytes (op : Word) : wordOfBytes (highByte op) (lowByte op) = op := by
  unfold wordOfBytes highByte lowByte
  ext i hi; simp; grind

theorem wordOfBytes_toNat (hi lo : Byte) : (wordOfBytes hi lo).toNat = 256 * hi.toNat + lo.toNat := by
  unfold wordOfBytes
  rw [BitVec.toNat_append, Nat.shiftLeft_eq, Nat.mul_comm, ← Nat.two_pow_add_eq_or_of_lt lo.isLt]

end Sys2Proof
end

