-- ==== Sys2Proof/Laws/Memory.lean ====
section
/-! SUPPORT. Memory: the canonical form is kept by every write, and a read after a write. -/

namespace Sys2Proof.Machine

theorem Memory.lookup_put_self (c : Config) (a : Nat) (b : Byte) (mem : List Host.Cell)
    (h : mem.Pairwise (fun p q => p.1 < q.1)) :
    (Memory.lookup (Memory.put c a b mem) a).getD (c.byteAtReset a) = b := by
  induction mem with
  | nil => unfold Memory.put; split <;> simp_all [Memory.lookup]
  | cons p rest ih =>
    obtain ⟨k, d⟩ := p
    have hr := ih h.of_cons
    have hlt : ∀ q ∈ rest, k < q.1 := fun q hq => List.rel_of_pairwise_cons h hq
    have hnone : ∀ l : List Host.Cell, (∀ q ∈ l, a < q.1) → Memory.lookup l a = none := by
      intro l
      induction l with
      | nil => intro _; rfl
      | cons q l ihl =>
        intro hq
        have h1 := hq q (by simp)
        rw [Memory.lookup, if_neg (by omega), ihl fun r hr => hq r (by simp [hr])]
    unfold Memory.put
    split
    · rename_i hk
      rw [Memory.lookup, if_neg (by omega)]; exact hr
    · split
      · rename_i hk
        subst hk
        split
        · rename_i hb; rw [hnone rest hlt]; simp [hb]
        · simp [Memory.lookup]
      · rename_i h1 h2
        have h3 : a < k := by omega
        split
        · rename_i hb
          rw [Memory.lookup, if_neg h2, hnone rest fun q hq => by have := hlt q hq; omega]; simp [hb]
        · simp [Memory.lookup]

theorem Memory.lookup_put_other (c : Config) (a x : Nat) (b : Byte) (mem : List Host.Cell) (hx : x ≠ a) :
    Memory.lookup (Memory.put c a b mem) x = Memory.lookup mem x := by
  induction mem with
  | nil => unfold Memory.put; split <;> simp [Memory.lookup, Ne.symm hx]
  | cons p rest ih =>
    obtain ⟨k, d⟩ := p
    unfold Memory.put
    split
    · simp only [Memory.lookup, ih]
    · split
      · rename_i hk; subst hk
        split <;> simp [Memory.lookup, Ne.symm hx]
      · split <;> simp [Memory.lookup, Ne.symm hx]

theorem Memory.mem_put (c : Config) (a : Nat) (b : Byte) (mem : List Host.Cell) (p : Host.Cell)
    (h : p ∈ Memory.put c a b mem) : p ∈ mem ∨ (p = (a, b) ∧ b ≠ c.byteAtReset a) := by
  induction mem with
  | nil =>
    unfold Memory.put at h
    split at h <;> simp_all
  | cons q rest ih =>
    obtain ⟨k, d⟩ := q
    unfold Memory.put at h
    split at h
    · rcases List.mem_cons.1 h with rfl | h
      · simp
      · rcases ih h with h | h
        · simp [h]
        · exact .inr h
    · split at h
      · split at h
        · simp [h]
        · rcases List.mem_cons.1 h with rfl | h <;> simp_all
      · split at h
        · exact .inl h
        · rcases List.mem_cons.1 h with rfl | h
          · right; exact ⟨rfl, ‹_›⟩
          · exact .inl h

theorem Memory.wf_put (c : Config) (a : Nat) (b : Byte) (mem : List Host.Cell) (ha : a < memSize)
    (h : Memory.wf c mem) : Memory.wf c (Memory.put c a b mem) := by
  refine ⟨?_, fun p hp => ?_⟩
  · have hs := h.1
    clear h
    induction mem with
    | nil => unfold Memory.put; split <;> simp
    | cons q rest ih =>
      obtain ⟨k, d⟩ := q
      have hlt : ∀ q ∈ rest, k < q.1 := fun q hq => List.rel_of_pairwise_cons hs hq
      unfold Memory.put
      split
      · refine List.pairwise_cons.2 ⟨fun q hq => ?_, ih hs.of_cons⟩
        rcases Memory.mem_put c a b rest q hq with h | ⟨rfl, -⟩
        · exact hlt q h
        · assumption
      · split
        · rename_i hk; subst hk
          split
          · exact hs.of_cons
          · exact List.pairwise_cons.2 ⟨hlt, hs.of_cons⟩
        · split
          · exact hs
          · refine List.pairwise_cons.2 ⟨fun q hq => ?_, hs⟩
            rcases List.mem_cons.1 hq with rfl | hq
            · simp; omega
            · have := hlt q hq; simp; omega
  · rcases Memory.mem_put c a b mem p hp with hp | ⟨rfl, hb⟩
    · exact h.2 p hp
    · exact ⟨ha, hb⟩

theorem Memory.wf_write (c : Config) (a : Nat) (b : Byte) (mem : List Host.Cell) (h : Memory.wf c mem) :
    Memory.wf c (Memory.write c a b mem) := by
  unfold Memory.write
  split
  · exact Memory.wf_put c a b mem ‹_› h
  · exact h

theorem Memory.wf_writeAll (c : Config) (a : Nat) (bs : List Byte) (mem : List Host.Cell) (h : Memory.wf c mem) :
    Memory.wf c (Memory.writeAll c a bs mem) := by
  induction bs generalizing a mem with
  | nil => exact h
  | cons b rest ih => exact ih (a + 1) _ (Memory.wf_write c a b mem h)

theorem Memory.wf_nil (c : Config) : Memory.wf c [] := by simp [Memory.wf]

theorem Memory.read_write_self (c : Config) (a : Nat) (b : Byte) (mem : List Host.Cell) (ha : a < memSize)
    (h : Memory.wf c mem) : Memory.read c (Memory.write c a b mem) a = b := by
  simp only [Memory.read, Memory.write, if_pos ha]
  exact Memory.lookup_put_self c a b mem h.1

theorem Memory.read_write_other (c : Config) (a x : Nat) (b : Byte) (mem : List Host.Cell) (hx : x ≠ a) :
    Memory.read c (Memory.write c a b mem) x = Memory.read c mem x := by
  unfold Memory.write
  split
  · simp only [Memory.read, Memory.lookup_put_other c a x b mem hx]
  · rfl

theorem Memory.read_writeAll_outside (c : Config) (a x : Nat) (bs : List Byte) (mem : List Host.Cell)
    (hx : ¬(a ≤ x ∧ x < a + bs.length)) :
    Memory.read c (Memory.writeAll c a bs mem) x = Memory.read c mem x := by
  induction bs generalizing a mem with
  | nil => rfl
  | cons b rest ih =>
    simp only [List.length_cons] at hx
    rw [Memory.writeAll, ih (a + 1) _ (by omega), Memory.read_write_other c a x b mem (by omega)]

theorem Memory.read_writeAll_inside (c : Config) (a j : Nat) (bs : List Byte) (mem : List Host.Cell)
    (h : Memory.wf c mem) (hb : a + bs.length ≤ memSize) (hj : j < bs.length) :
    Memory.read c (Memory.writeAll c a bs mem) (a + j) = bs[j] := by
  induction bs generalizing a j mem with
  | nil => simp at hj
  | cons b rest ih =>
    simp only [List.length_cons] at hb hj
    have hw := Memory.wf_write c a b mem h
    cases j with
    | zero =>
      rw [Memory.writeAll, Memory.read_writeAll_outside c _ _ rest _ (by omega)]
      exact Memory.read_write_self c a b mem (by omega) h
    | succ j =>
      have := ih (a + 1) j _ hw (by omega) (by omega)
      rw [show a + (j + 1) = a + 1 + j by omega, Memory.writeAll, this]
      rfl
end Sys2Proof.Machine
end

