-- ==== Sys2Proof/Laws/Ops.lean ====
section
/-! SUPPORT. One lemma for each shared operation: what it can do, for the proofs to cite. -/

namespace Sys2Proof.Machine

/-! ### Registers -/

theorem reg_setReg (s : State) (x r : Reg) (b : Byte) :
    (s.setReg x b).reg r = if r = x then b else s.reg r := by
  unfold State.reg State.setReg
  by_cases h : r = x
  · subst h; simp
  · have : x.val ≠ r.val := fun e => h (Fin.ext e.symm)
    simp [this, h]

@[simp] theorem reg_setReg_self (s : State) (x : Reg) (b : Byte) : (s.setReg x b).reg x = b := by
  rw [reg_setReg, if_pos rfl]

theorem reg_setReg_of_ne (s : State) {x r : Reg} (b : Byte) (h : r ≠ x) : (s.setReg x b).reg r = s.reg r := by
  rw [reg_setReg, if_neg h]

/-- The result first, then the flag, which wins in `VF`. -/
theorem reg_setResultAndFlag (s : State) (x r : Reg) (b : Byte) (f : Bool) :
    (s.setResultAndFlag x b f).reg r = if r = VF then flagByte f else if r = x then b else s.reg r := by
  rw [State.setResultAndFlag, reg_setReg, reg_setReg]

theorem reg_loadRegisters (s : State) (x r : Reg) :
    (s.loadRegisters x).reg r = if r ≤ x then s.readByte (s.index.toNat + r.val) else s.reg r := by
  simp [State.reg, State.loadRegisters]

/-- Updates that leave the registers leave every register. -/
theorem reg_congr {s t : State} (h : t.v = s.v) (r : Reg) : t.reg r = s.reg r := by
  unfold State.reg; rw [h]

/-! ### Memory through the state -/

theorem readByte_congr {s t : State} (hc : t.cfg = s.cfg) (hm : t.mem = s.mem) (a : Nat) :
    t.readByte a = s.readByte a := by
  unfold State.readByte; rw [hc, hm]

theorem fetchWord_congr {s t : State} (hc : t.cfg = s.cfg) (hm : t.mem = s.mem) (a : Nat) :
    t.fetchWord a = s.fetchWord a := by
  unfold State.fetchWord; rw [readByte_congr hc hm, readByte_congr hc hm]

theorem readByte_writeBytes_outside (s : State) (a x : Nat) (bs : List Byte) (h : ¬(a ≤ x ∧ x < a + bs.length)) :
    (s.writeBytes a bs).readByte x = s.readByte x :=
  Memory.read_writeAll_outside s.cfg a x bs s.mem h

theorem readByte_writeBytes_inside (s : State) (a j : Nat) (bs : List Byte) (hw : Memory.wf s.cfg s.mem)
    (hb : a + bs.length ≤ memSize) (hj : j < bs.length) : (s.writeBytes a bs).readByte (a + j) = bs[j] :=
  Memory.read_writeAll_inside s.cfg a j bs s.mem hw hb hj

theorem inMemory_iff (a n : Nat) : inMemory a n = true ↔ n = 0 ∨ a + n ≤ memSize := by
  simp [inMemory]

/-! ### Operands -/

theorem length_registersUpTo (s : State) (x : Reg) : (s.registersUpTo x).length = registerCount x := by
  simp [State.registersUpTo, registerCount]

theorem getElem_registersUpTo (s : State) (x : Reg) (j : Nat) (h : j < (s.registersUpTo x).length) (h16 : j < 16) :
    (s.registersUpTo x)[j] = s.reg ⟨j, h16⟩ := by
  simp [State.registersUpTo, State.reg]

theorem lowestKey_eq_some {keys : KeyVector} {k : Fin 16} (h : keys[k] = true)
    (below : ∀ j : Fin 16, j < k → keys[j] = false) : lowestKey keys = some k.val := by
  unfold lowestKey
  rw [List.findIdx?_eq_some_iff_getElem]
  refine ⟨by simp, by simpa using h, fun j hj => ?_⟩
  have := below ⟨j, by omega⟩ hj
  simpa using this

theorem lowestKey_eq_none {keys : KeyVector} (h : ∀ k : Fin 16, keys[k] = false) : lowestKey keys = none := by
  unfold lowestKey
  rw [List.findIdx?_eq_none_iff]
  intro b hb
  obtain ⟨i, hi, rfl⟩ := List.getElem_of_mem hb
  have := h ⟨i, by simpa using hi⟩
  simpa using this

/-! ### Pixels -/

theorem pixel_of_lt (fb : Framebuffer) (x : Nat) {y : Nat} (h : y < 64) :
    Framebuffer.pixel fb x y = fb[y].getLsbD x := by
  simp [Framebuffer.pixel, h]

theorem pixel_of_ge (fb : Framebuffer) (x : Nat) {y : Nat} (h : 64 ≤ y) : Framebuffer.pixel fb x y = false := by
  simp [Framebuffer.pixel, h]

theorem pixel_wide (fb : Framebuffer) {x : Nat} (y : Nat) (h : 128 ≤ x) : Framebuffer.pixel fb x y = false := by
  rcases Nat.lt_or_ge y 64 with hy | hy
  · rw [pixel_of_lt fb x hy]; exact BitVec.getLsbD_of_ge _ _ h
  · exact pixel_of_ge fb x hy

/-- Toggling changes its own pixel, where it is on the grid, and no other. -/
theorem pixel_toggle (fb : Framebuffer) (a b x y : Nat) (ha : a < 128) (hb : b < 64) :
    Framebuffer.pixel (Framebuffer.toggle fb a b) x y =
      if x = a ∧ y = b then !Framebuffer.pixel fb x y else Framebuffer.pixel fb x y := by
  rcases Nat.lt_or_ge y 64 with hy | hy
  · rw [pixel_of_lt _ _ hy, pixel_of_lt _ _ hy]
    unfold Framebuffer.toggle
    by_cases h : y = b
    · subst h
      simp [hb, BitVec.getLsbD_twoPow]
      by_cases hx : x = a
      · subst hx; simp [ha]
      · simp [hx, Ne.symm hx]
    · have : b ≠ y := Ne.symm h
      simp [this, h]
  · have : ¬(x = a ∧ y = b) := by omega
    rw [if_neg this, pixel_of_ge _ _ hy, pixel_of_ge _ _ hy]

theorem framebuffer_ext {f g : Framebuffer}
    (h : ∀ x y, x < 128 → y < 64 → Framebuffer.pixel f x y = Framebuffer.pixel g x y) : f = g := by
  apply Vector.ext
  intro y hy
  apply BitVec.eq_of_getLsbD_eq
  intro x hx
  have := h x y hx hy
  rwa [pixel_of_lt _ _ hy, pixel_of_lt _ _ hy] at this

/-! ### Errors -/

/-- The variant gate gives the effect in SCHIP and the error in CHIP8, and nothing else. -/
theorem schipOnly_schip {i : Instr} {s e : State} (h : s.cfg.variant = .schip) : schipOnly i s e = .next e := by
  unfold schipOnly; rw [h]

theorem schipOnly_chip8 {i : Instr} {s e : State} (h : s.cfg.variant = .chip8) :
    schipOnly i s e = .next (s.raiseIn .variantMismatch i) := by
  unfold schipOnly; rw [h]

theorem schipOnly_cases (i : Instr) (s e : State) :
    (s.cfg.variant = .schip ∧ schipOnly i s e = .next e) ∨
      (s.cfg.variant = .chip8 ∧ schipOnly i s e = .next (s.raiseIn .variantMismatch i)) := by
  cases h : s.cfg.variant
  · exact .inr ⟨rfl, schipOnly_chip8 h⟩
  · exact .inl ⟨rfl, schipOnly_schip h⟩

end Sys2Proof.Machine
end

