-- ==== Sys2Proof/Laws/Draw.lean ====
section
/-! SUPPORT. The draw engine: which pixels a sprite toggles, each once, and what the drawing loop then does. -/

namespace Sys2Proof.Machine

/-- What the loops of R111 do, for distinct pixels on the grid: each is toggled, no other changes, and the flag says whether
one of them was set. -/
theorem drawPixels_spec (fb : Framebuffer) (ps : List (Nat × Nat)) (hn : ps.Nodup)
    (hg : ∀ p ∈ ps, p.1 < 128 ∧ p.2 < 64) :
    (∀ x y, Framebuffer.pixel (drawPixels fb ps).1 x y =
      if (x, y) ∈ ps then !Framebuffer.pixel fb x y else Framebuffer.pixel fb x y) ∧
    ((drawPixels fb ps).2 = true ↔ ∃ x y, (x, y) ∈ ps ∧ Framebuffer.pixel fb x y = true) := by
  suffices h : ∀ (ps : List (Nat × Nat)) (acc : Framebuffer × Bool), ps.Nodup → (∀ p ∈ ps, p.1 < 128 ∧ p.2 < 64) →
      (∀ x y, Framebuffer.pixel (ps.foldl drawPixel acc).1 x y =
        if (x, y) ∈ ps then !Framebuffer.pixel acc.1 x y else Framebuffer.pixel acc.1 x y) ∧
      ((ps.foldl drawPixel acc).2 = true ↔
        acc.2 = true ∨ ∃ x y, (x, y) ∈ ps ∧ Framebuffer.pixel acc.1 x y = true) by
    simpa [drawPixels] using h ps (fb, false) hn hg
  intro ps
  induction ps with
  | nil => intro acc _ _; simp
  | cons p rest ih =>
    obtain ⟨a, b⟩ := p
    intro acc hn hg
    obtain ⟨hp, hr⟩ := List.nodup_cons.1 hn
    obtain ⟨ha, hb⟩ := hg (a, b) (by simp)
    have tog := fun x y => pixel_toggle acc.1 a b x y ha hb
    have same : ∀ x y, (x, y) ∈ rest → Framebuffer.pixel (acc.1.toggle a b) x y = Framebuffer.pixel acc.1 x y := by
      intro x y h
      rw [tog, if_neg]
      rintro ⟨rfl, rfl⟩; exact hp h
    obtain ⟨h1, h2⟩ := ih (drawPixel acc (a, b)) hr fun q hq => hg q (by simp [hq])
    refine ⟨fun x y => ?_, ?_⟩
    · rw [List.foldl_cons, h1]
      by_cases h : (x, y) ∈ rest
      · simp [h, drawPixel, same x y h]
      · simp [h, drawPixel, tog x y]
    · rw [List.foldl_cons, h2]
      simp only [drawPixel, Bool.or_eq_true, or_assoc]
      refine or_congr_right ⟨?_, ?_⟩
      · rintro (h | ⟨x, y, h, hx⟩)
        · exact ⟨a, b, by simp, h⟩
        · exact ⟨x, y, by simp [h], by rw [← same x y h]; exact hx⟩
      · rintro ⟨x, y, h, hx⟩
        rcases List.mem_cons.1 h with h | h
        · cases h; exact .inl hx
        · exact .inr ⟨x, y, h, by rw [same x y h]; exact hx⟩

theorem mem_square (g : Geometry) (r c px py : Nat) :
    (px, py) ∈ g.square r c ↔
      g.originX + g.scale * c ≤ px ∧ px < g.originX + g.scale * c + g.scale ∧
        g.originY + g.scale * r ≤ py ∧ py < g.originY + g.scale * r + g.scale := by
  simp only [Geometry.square, List.mem_flatMap, List.mem_range, List.mem_map, Prod.mk.injEq]
  constructor
  · rintro ⟨dy, hy, dx, hx, rfl, rfl⟩; omega
  · rintro ⟨h1, h2, h3, h4⟩
    exact ⟨py - (g.originY + g.scale * r), by omega, px - (g.originX + g.scale * c), by omega, by omega, by omega⟩

/-- The pixels a sprite toggles. -/
theorem mem_spritePixels (s : State) (g : Geometry) (px py : Nat) :
    (px, py) ∈ s.spritePixels g ↔
      px < g.dispW ∧ py < g.dispH ∧
        ∃ r c, r < g.height ∧ c < g.width ∧ s.spriteBit g r c = true ∧ (px, py) ∈ g.square r c := by
  simp only [State.spritePixels, List.mem_flatMap, List.mem_range]
  constructor
  · rintro ⟨r, hr, c, hc, h⟩
    split at h
    · simp only [List.mem_filter, Geometry.onDisplay, Bool.and_eq_true, decide_eq_true_eq] at h
      exact ⟨h.2.1, h.2.2, r, c, hr, hc, ‹_›, h.1⟩
    · simp at h
  · rintro ⟨hx, hy, r, c, hr, hc, hb, h⟩
    refine ⟨r, hr, c, hc, ?_⟩
    rw [if_pos hb]
    simp [List.mem_filter, Geometry.onDisplay, hx, hy, h]

theorem nodup_square (g : Geometry) (r c : Nat) : (g.square r c).Nodup := by
  unfold Geometry.square
  refine List.nodup_flatMap.2 ⟨fun dy _ => ?_, ?_⟩
  · exact (List.nodup_map_iff (by intro a b h; simpa using h)).2 List.nodup_range
  · refine List.Nodup.pairwise_of_forall_ne List.nodup_range fun a _ b _ hab p hp hq => ?_
    simp only [List.mem_map] at hp hq
    obtain ⟨_, -, rfl⟩ := hp
    obtain ⟨_, -, h⟩ := hq
    simp only [Prod.mk.injEq] at h
    omega

/-- No pixel is toggled twice: distinct sprite pixels paint disjoint squares. -/
theorem nodup_spritePixels (s : State) (g : Geometry) : (s.spritePixels g).Nodup := by
  have key : ∀ r c r' c' p, p ∈ (if s.spriteBit g r c then (g.square r c).filter g.onDisplay else []) →
      p ∈ (if s.spriteBit g r' c' then (g.square r' c').filter g.onDisplay else []) → r = r' ∧ c = c' := by
    intro r c r' c' ⟨px, py⟩ h h'
    split at h <;> [skip; simp at h]
    split at h' <;> [skip; simp at h']
    have h1 := (mem_square g r c px py).1 (List.mem_filter.1 h).1
    have h2 := (mem_square g r' c' px py).1 (List.mem_filter.1 h').1
    have aux : ∀ o a b p : Nat, o + g.scale * a ≤ p → p < o + g.scale * a + g.scale → o + g.scale * b ≤ p →
        p < o + g.scale * b + g.scale → a = b := by
      intro o a b p e1 e2 e3 e4
      have f1 : g.scale * a < g.scale * (b + 1) := by rw [Nat.mul_add]; omega
      have f2 : g.scale * b < g.scale * (a + 1) := by rw [Nat.mul_add]; omega
      have := Nat.lt_of_mul_lt_mul_left f1
      have := Nat.lt_of_mul_lt_mul_left f2
      omega
    exact ⟨aux _ _ _ _ h1.2.2.1 h1.2.2.2 h2.2.2.1 h2.2.2.2, aux _ _ _ _ h1.1 h1.2.1 h2.1 h2.2.1⟩
  unfold State.spritePixels
  refine List.nodup_flatMap.2 ⟨fun r _ => List.nodup_flatMap.2 ⟨fun c _ => ?_, ?_⟩, ?_⟩
  · split
    · exact (nodup_square g r c).filter _
    · simp
  · exact List.Nodup.pairwise_of_forall_ne List.nodup_range fun c _ c' _ hne p h h' => hne (key r c r c' p h h').2
  · refine List.Nodup.pairwise_of_forall_ne List.nodup_range fun r _ r' _ hne p h h' => ?_
    simp only [List.mem_flatMap] at h h'
    obtain ⟨c, -, h⟩ := h
    obtain ⟨c', -, h'⟩ := h'
    exact hne (key r c r' c' p h h').1

theorem geometryOf_fits (s : State) (x y : Reg) (n : Nibble) :
    (s.geometryOf x y n).dispW ≤ 128 ∧ (s.geometryOf x y n).dispH ≤ 64 := by
  unfold State.geometryOf geometry
  split <;> (try split) <;> (try split) <;> simp

end Sys2Proof.Machine
end

