-- ==== Sys2Proof/Laws/State.lean ====
section
/-! SUPPORT. For each named update of the state, what every field is after it. -/

namespace Sys2Proof.Machine

/-! ### setReg -/

@[simp] theorem setReg_cfg (s : State) (r : Reg) (b : Byte) : (s.setReg r b).cfg = s.cfg := rfl
@[simp] theorem setReg_v (s : State) (r : Reg) (b : Byte) : (s.setReg r b).v = s.v.set r b := rfl
@[simp] theorem setReg_pc (s : State) (r : Reg) (b : Byte) : (s.setReg r b).pc = s.pc := rfl
@[simp] theorem setReg_index (s : State) (r : Reg) (b : Byte) : (s.setReg r b).index = s.index := rfl
@[simp] theorem setReg_stack (s : State) (r : Reg) (b : Byte) : (s.setReg r b).stack = s.stack := rfl
@[simp] theorem setReg_dt (s : State) (r : Reg) (b : Byte) : (s.setReg r b).dt = s.dt := rfl
@[simp] theorem setReg_st (s : State) (r : Reg) (b : Byte) : (s.setReg r b).st = s.st := rfl
@[simp] theorem setReg_fb (s : State) (r : Reg) (b : Byte) : (s.setReg r b).fb = s.fb := rfl
@[simp] theorem setReg_hires (s : State) (r : Reg) (b : Byte) : (s.setReg r b).hires = s.hires := rfl
@[simp] theorem setReg_running (s : State) (r : Reg) (b : Byte) : (s.setReg r b).running = s.running := rfl
@[simp] theorem setReg_halted (s : State) (r : Reg) (b : Byte) : (s.setReg r b).halted = s.halted := rfl
@[simp] theorem setReg_lastError (s : State) (r : Reg) (b : Byte) : (s.setReg r b).lastError = s.lastError := rfl
@[simp] theorem setReg_mem (s : State) (r : Reg) (b : Byte) : (s.setReg r b).mem = s.mem := rfl
@[simp] theorem setReg_keysDown (s : State) (r : Reg) (b : Byte) : (s.setReg r b).keysDown = s.keysDown := rfl
@[simp] theorem setReg_keysReleased (s : State) (r : Reg) (b : Byte) : (s.setReg r b).keysReleased = s.keysReleased := rfl
@[simp] theorem setReg_stepsLeft (s : State) (r : Reg) (b : Byte) : (s.setReg r b).stepsLeft = s.stepsLeft := rfl
@[simp] theorem setReg_result (s : State) (r : Reg) (b : Byte) : (s.setReg r b).result = s.result := rfl
@[simp] theorem setReg_requests (s : State) (r : Reg) (b : Byte) : (s.setReg r b).requests = s.requests := rfl
@[simp] theorem setReg_ticks (s : State) (r : Reg) (b : Byte) : (s.setReg r b).ticks = s.ticks := rfl
@[simp] theorem setReg_draws (s : State) (r : Reg) (b : Byte) : (s.setReg r b).draws = s.draws := rfl

/-! ### setPc -/

@[simp] theorem setPc_cfg (s : State) (a : Word) : (s.setPc a).cfg = s.cfg := rfl
@[simp] theorem setPc_v (s : State) (a : Word) : (s.setPc a).v = s.v := rfl
@[simp] theorem setPc_pc (s : State) (a : Word) : (s.setPc a).pc = a := rfl
@[simp] theorem setPc_index (s : State) (a : Word) : (s.setPc a).index = s.index := rfl
@[simp] theorem setPc_stack (s : State) (a : Word) : (s.setPc a).stack = s.stack := rfl
@[simp] theorem setPc_dt (s : State) (a : Word) : (s.setPc a).dt = s.dt := rfl
@[simp] theorem setPc_st (s : State) (a : Word) : (s.setPc a).st = s.st := rfl
@[simp] theorem setPc_fb (s : State) (a : Word) : (s.setPc a).fb = s.fb := rfl
@[simp] theorem setPc_hires (s : State) (a : Word) : (s.setPc a).hires = s.hires := rfl
@[simp] theorem setPc_running (s : State) (a : Word) : (s.setPc a).running = s.running := rfl
@[simp] theorem setPc_halted (s : State) (a : Word) : (s.setPc a).halted = s.halted := rfl
@[simp] theorem setPc_lastError (s : State) (a : Word) : (s.setPc a).lastError = s.lastError := rfl
@[simp] theorem setPc_mem (s : State) (a : Word) : (s.setPc a).mem = s.mem := rfl
@[simp] theorem setPc_keysDown (s : State) (a : Word) : (s.setPc a).keysDown = s.keysDown := rfl
@[simp] theorem setPc_keysReleased (s : State) (a : Word) : (s.setPc a).keysReleased = s.keysReleased := rfl
@[simp] theorem setPc_stepsLeft (s : State) (a : Word) : (s.setPc a).stepsLeft = s.stepsLeft := rfl
@[simp] theorem setPc_result (s : State) (a : Word) : (s.setPc a).result = s.result := rfl
@[simp] theorem setPc_requests (s : State) (a : Word) : (s.setPc a).requests = s.requests := rfl
@[simp] theorem setPc_ticks (s : State) (a : Word) : (s.setPc a).ticks = s.ticks := rfl
@[simp] theorem setPc_draws (s : State) (a : Word) : (s.setPc a).draws = s.draws := rfl

/-! ### setIndex -/

@[simp] theorem setIndex_cfg (s : State) (a : Word) : (s.setIndex a).cfg = s.cfg := rfl
@[simp] theorem setIndex_v (s : State) (a : Word) : (s.setIndex a).v = s.v := rfl
@[simp] theorem setIndex_pc (s : State) (a : Word) : (s.setIndex a).pc = s.pc := rfl
@[simp] theorem setIndex_index (s : State) (a : Word) : (s.setIndex a).index = a := rfl
@[simp] theorem setIndex_stack (s : State) (a : Word) : (s.setIndex a).stack = s.stack := rfl
@[simp] theorem setIndex_dt (s : State) (a : Word) : (s.setIndex a).dt = s.dt := rfl
@[simp] theorem setIndex_st (s : State) (a : Word) : (s.setIndex a).st = s.st := rfl
@[simp] theorem setIndex_fb (s : State) (a : Word) : (s.setIndex a).fb = s.fb := rfl
@[simp] theorem setIndex_hires (s : State) (a : Word) : (s.setIndex a).hires = s.hires := rfl
@[simp] theorem setIndex_running (s : State) (a : Word) : (s.setIndex a).running = s.running := rfl
@[simp] theorem setIndex_halted (s : State) (a : Word) : (s.setIndex a).halted = s.halted := rfl
@[simp] theorem setIndex_lastError (s : State) (a : Word) : (s.setIndex a).lastError = s.lastError := rfl
@[simp] theorem setIndex_mem (s : State) (a : Word) : (s.setIndex a).mem = s.mem := rfl
@[simp] theorem setIndex_keysDown (s : State) (a : Word) : (s.setIndex a).keysDown = s.keysDown := rfl
@[simp] theorem setIndex_keysReleased (s : State) (a : Word) : (s.setIndex a).keysReleased = s.keysReleased := rfl
@[simp] theorem setIndex_stepsLeft (s : State) (a : Word) : (s.setIndex a).stepsLeft = s.stepsLeft := rfl
@[simp] theorem setIndex_result (s : State) (a : Word) : (s.setIndex a).result = s.result := rfl
@[simp] theorem setIndex_requests (s : State) (a : Word) : (s.setIndex a).requests = s.requests := rfl
@[simp] theorem setIndex_ticks (s : State) (a : Word) : (s.setIndex a).ticks = s.ticks := rfl
@[simp] theorem setIndex_draws (s : State) (a : Word) : (s.setIndex a).draws = s.draws := rfl

/-! ### skipNext -/

@[simp] theorem skipNext_cfg (s : State) : (s.skipNext).cfg = s.cfg := rfl
@[simp] theorem skipNext_v (s : State) : (s.skipNext).v = s.v := rfl
@[simp] theorem skipNext_pc (s : State) : (s.skipNext).pc = s.pc + 2 := rfl
@[simp] theorem skipNext_index (s : State) : (s.skipNext).index = s.index := rfl
@[simp] theorem skipNext_stack (s : State) : (s.skipNext).stack = s.stack := rfl
@[simp] theorem skipNext_dt (s : State) : (s.skipNext).dt = s.dt := rfl
@[simp] theorem skipNext_st (s : State) : (s.skipNext).st = s.st := rfl
@[simp] theorem skipNext_fb (s : State) : (s.skipNext).fb = s.fb := rfl
@[simp] theorem skipNext_hires (s : State) : (s.skipNext).hires = s.hires := rfl
@[simp] theorem skipNext_running (s : State) : (s.skipNext).running = s.running := rfl
@[simp] theorem skipNext_halted (s : State) : (s.skipNext).halted = s.halted := rfl
@[simp] theorem skipNext_lastError (s : State) : (s.skipNext).lastError = s.lastError := rfl
@[simp] theorem skipNext_mem (s : State) : (s.skipNext).mem = s.mem := rfl
@[simp] theorem skipNext_keysDown (s : State) : (s.skipNext).keysDown = s.keysDown := rfl
@[simp] theorem skipNext_keysReleased (s : State) : (s.skipNext).keysReleased = s.keysReleased := rfl
@[simp] theorem skipNext_stepsLeft (s : State) : (s.skipNext).stepsLeft = s.stepsLeft := rfl
@[simp] theorem skipNext_result (s : State) : (s.skipNext).result = s.result := rfl
@[simp] theorem skipNext_requests (s : State) : (s.skipNext).requests = s.requests := rfl
@[simp] theorem skipNext_ticks (s : State) : (s.skipNext).ticks = s.ticks := rfl
@[simp] theorem skipNext_draws (s : State) : (s.skipNext).draws = s.draws := rfl

/-! ### advance -/

@[simp] theorem advance_cfg (s : State) : (s.advance).cfg = s.cfg := rfl
@[simp] theorem advance_v (s : State) : (s.advance).v = s.v := rfl
@[simp] theorem advance_pc (s : State) : (s.advance).pc = s.pc + 2 := rfl
@[simp] theorem advance_index (s : State) : (s.advance).index = s.index := rfl
@[simp] theorem advance_stack (s : State) : (s.advance).stack = s.stack := rfl
@[simp] theorem advance_dt (s : State) : (s.advance).dt = s.dt := rfl
@[simp] theorem advance_st (s : State) : (s.advance).st = s.st := rfl
@[simp] theorem advance_fb (s : State) : (s.advance).fb = s.fb := rfl
@[simp] theorem advance_hires (s : State) : (s.advance).hires = s.hires := rfl
@[simp] theorem advance_running (s : State) : (s.advance).running = s.running := rfl
@[simp] theorem advance_halted (s : State) : (s.advance).halted = s.halted := rfl
@[simp] theorem advance_lastError (s : State) : (s.advance).lastError = s.lastError := rfl
@[simp] theorem advance_mem (s : State) : (s.advance).mem = s.mem := rfl
@[simp] theorem advance_keysDown (s : State) : (s.advance).keysDown = s.keysDown := rfl
@[simp] theorem advance_keysReleased (s : State) : (s.advance).keysReleased = s.keysReleased := rfl
@[simp] theorem advance_stepsLeft (s : State) : (s.advance).stepsLeft = s.stepsLeft := rfl
@[simp] theorem advance_result (s : State) : (s.advance).result = s.result := rfl
@[simp] theorem advance_requests (s : State) : (s.advance).requests = s.requests := rfl
@[simp] theorem advance_ticks (s : State) : (s.advance).ticks = s.ticks := rfl
@[simp] theorem advance_draws (s : State) : (s.advance).draws = s.draws := rfl

/-! ### push -/

@[simp] theorem push_cfg (s : State) (a : Word) : (s.push a).cfg = s.cfg := rfl
@[simp] theorem push_v (s : State) (a : Word) : (s.push a).v = s.v := rfl
@[simp] theorem push_pc (s : State) (a : Word) : (s.push a).pc = s.pc := rfl
@[simp] theorem push_index (s : State) (a : Word) : (s.push a).index = s.index := rfl
@[simp] theorem push_stack (s : State) (a : Word) : (s.push a).stack = a :: s.stack := rfl
@[simp] theorem push_dt (s : State) (a : Word) : (s.push a).dt = s.dt := rfl
@[simp] theorem push_st (s : State) (a : Word) : (s.push a).st = s.st := rfl
@[simp] theorem push_fb (s : State) (a : Word) : (s.push a).fb = s.fb := rfl
@[simp] theorem push_hires (s : State) (a : Word) : (s.push a).hires = s.hires := rfl
@[simp] theorem push_running (s : State) (a : Word) : (s.push a).running = s.running := rfl
@[simp] theorem push_halted (s : State) (a : Word) : (s.push a).halted = s.halted := rfl
@[simp] theorem push_lastError (s : State) (a : Word) : (s.push a).lastError = s.lastError := rfl
@[simp] theorem push_mem (s : State) (a : Word) : (s.push a).mem = s.mem := rfl
@[simp] theorem push_keysDown (s : State) (a : Word) : (s.push a).keysDown = s.keysDown := rfl
@[simp] theorem push_keysReleased (s : State) (a : Word) : (s.push a).keysReleased = s.keysReleased := rfl
@[simp] theorem push_stepsLeft (s : State) (a : Word) : (s.push a).stepsLeft = s.stepsLeft := rfl
@[simp] theorem push_result (s : State) (a : Word) : (s.push a).result = s.result := rfl
@[simp] theorem push_requests (s : State) (a : Word) : (s.push a).requests = s.requests := rfl
@[simp] theorem push_ticks (s : State) (a : Word) : (s.push a).ticks = s.ticks := rfl
@[simp] theorem push_draws (s : State) (a : Word) : (s.push a).draws = s.draws := rfl

/-! ### writeBytes -/

@[simp] theorem writeBytes_cfg (s : State) (a : Nat) (bs : List Byte) : (s.writeBytes a bs).cfg = s.cfg := rfl
@[simp] theorem writeBytes_v (s : State) (a : Nat) (bs : List Byte) : (s.writeBytes a bs).v = s.v := rfl
@[simp] theorem writeBytes_pc (s : State) (a : Nat) (bs : List Byte) : (s.writeBytes a bs).pc = s.pc := rfl
@[simp] theorem writeBytes_index (s : State) (a : Nat) (bs : List Byte) : (s.writeBytes a bs).index = s.index := rfl
@[simp] theorem writeBytes_stack (s : State) (a : Nat) (bs : List Byte) : (s.writeBytes a bs).stack = s.stack := rfl
@[simp] theorem writeBytes_dt (s : State) (a : Nat) (bs : List Byte) : (s.writeBytes a bs).dt = s.dt := rfl
@[simp] theorem writeBytes_st (s : State) (a : Nat) (bs : List Byte) : (s.writeBytes a bs).st = s.st := rfl
@[simp] theorem writeBytes_fb (s : State) (a : Nat) (bs : List Byte) : (s.writeBytes a bs).fb = s.fb := rfl
@[simp] theorem writeBytes_hires (s : State) (a : Nat) (bs : List Byte) : (s.writeBytes a bs).hires = s.hires := rfl
@[simp] theorem writeBytes_running (s : State) (a : Nat) (bs : List Byte) : (s.writeBytes a bs).running = s.running := rfl
@[simp] theorem writeBytes_halted (s : State) (a : Nat) (bs : List Byte) : (s.writeBytes a bs).halted = s.halted := rfl
@[simp] theorem writeBytes_lastError (s : State) (a : Nat) (bs : List Byte) : (s.writeBytes a bs).lastError = s.lastError := rfl
@[simp] theorem writeBytes_mem (s : State) (a : Nat) (bs : List Byte) : (s.writeBytes a bs).mem = Memory.writeAll s.cfg a bs s.mem := rfl
@[simp] theorem writeBytes_keysDown (s : State) (a : Nat) (bs : List Byte) : (s.writeBytes a bs).keysDown = s.keysDown := rfl
@[simp] theorem writeBytes_keysReleased (s : State) (a : Nat) (bs : List Byte) : (s.writeBytes a bs).keysReleased = s.keysReleased := rfl
@[simp] theorem writeBytes_stepsLeft (s : State) (a : Nat) (bs : List Byte) : (s.writeBytes a bs).stepsLeft = s.stepsLeft := rfl
@[simp] theorem writeBytes_result (s : State) (a : Nat) (bs : List Byte) : (s.writeBytes a bs).result = s.result := rfl
@[simp] theorem writeBytes_requests (s : State) (a : Nat) (bs : List Byte) : (s.writeBytes a bs).requests = s.requests := rfl
@[simp] theorem writeBytes_ticks (s : State) (a : Nat) (bs : List Byte) : (s.writeBytes a bs).ticks = s.ticks := rfl
@[simp] theorem writeBytes_draws (s : State) (a : Nat) (bs : List Byte) : (s.writeBytes a bs).draws = s.draws := rfl

/-! ### raise -/

@[simp] theorem raise_cfg (s : State) (e : ErrorRecord) : (s.raise e).cfg = s.cfg := rfl
@[simp] theorem raise_v (s : State) (e : ErrorRecord) : (s.raise e).v = s.v := rfl
@[simp] theorem raise_pc (s : State) (e : ErrorRecord) : (s.raise e).pc = s.pc := rfl
@[simp] theorem raise_index (s : State) (e : ErrorRecord) : (s.raise e).index = s.index := rfl
@[simp] theorem raise_stack (s : State) (e : ErrorRecord) : (s.raise e).stack = s.stack := rfl
@[simp] theorem raise_dt (s : State) (e : ErrorRecord) : (s.raise e).dt = s.dt := rfl
@[simp] theorem raise_st (s : State) (e : ErrorRecord) : (s.raise e).st = s.st := rfl
@[simp] theorem raise_fb (s : State) (e : ErrorRecord) : (s.raise e).fb = s.fb := rfl
@[simp] theorem raise_hires (s : State) (e : ErrorRecord) : (s.raise e).hires = s.hires := rfl
@[simp] theorem raise_running (s : State) (e : ErrorRecord) : (s.raise e).running = s.running := rfl
@[simp] theorem raise_halted (s : State) (e : ErrorRecord) : (s.raise e).halted = (s.halted || e.kind.fatal) := rfl
@[simp] theorem raise_lastError (s : State) (e : ErrorRecord) : (s.raise e).lastError = some e := rfl
@[simp] theorem raise_mem (s : State) (e : ErrorRecord) : (s.raise e).mem = s.mem := rfl
@[simp] theorem raise_keysDown (s : State) (e : ErrorRecord) : (s.raise e).keysDown = s.keysDown := rfl
@[simp] theorem raise_keysReleased (s : State) (e : ErrorRecord) : (s.raise e).keysReleased = s.keysReleased := rfl
@[simp] theorem raise_stepsLeft (s : State) (e : ErrorRecord) : (s.raise e).stepsLeft = 0 := rfl
@[simp] theorem raise_result (s : State) (e : ErrorRecord) : (s.raise e).result = some (.error e) := rfl
@[simp] theorem raise_requests (s : State) (e : ErrorRecord) : (s.raise e).requests = s.requests := rfl
@[simp] theorem raise_ticks (s : State) (e : ErrorRecord) : (s.raise e).ticks = s.ticks := rfl
@[simp] theorem raise_draws (s : State) (e : ErrorRecord) : (s.raise e).draws = s.draws := rfl

/-! ### loadRegisters -/

@[simp] theorem loadRegisters_cfg (s : State) (x : Reg) : (s.loadRegisters x).cfg = s.cfg := by simp only [State.loadRegisters]
@[simp] theorem loadRegisters_pc (s : State) (x : Reg) : (s.loadRegisters x).pc = s.pc := by simp only [State.loadRegisters]
@[simp] theorem loadRegisters_index (s : State) (x : Reg) : (s.loadRegisters x).index = s.index := by simp only [State.loadRegisters]
@[simp] theorem loadRegisters_stack (s : State) (x : Reg) : (s.loadRegisters x).stack = s.stack := by simp only [State.loadRegisters]
@[simp] theorem loadRegisters_dt (s : State) (x : Reg) : (s.loadRegisters x).dt = s.dt := by simp only [State.loadRegisters]
@[simp] theorem loadRegisters_st (s : State) (x : Reg) : (s.loadRegisters x).st = s.st := by simp only [State.loadRegisters]
@[simp] theorem loadRegisters_fb (s : State) (x : Reg) : (s.loadRegisters x).fb = s.fb := by simp only [State.loadRegisters]
@[simp] theorem loadRegisters_hires (s : State) (x : Reg) : (s.loadRegisters x).hires = s.hires := by simp only [State.loadRegisters]
@[simp] theorem loadRegisters_running (s : State) (x : Reg) : (s.loadRegisters x).running = s.running := by simp only [State.loadRegisters]
@[simp] theorem loadRegisters_halted (s : State) (x : Reg) : (s.loadRegisters x).halted = s.halted := by simp only [State.loadRegisters]
@[simp] theorem loadRegisters_lastError (s : State) (x : Reg) : (s.loadRegisters x).lastError = s.lastError := by simp only [State.loadRegisters]
@[simp] theorem loadRegisters_mem (s : State) (x : Reg) : (s.loadRegisters x).mem = s.mem := by simp only [State.loadRegisters]
@[simp] theorem loadRegisters_keysDown (s : State) (x : Reg) : (s.loadRegisters x).keysDown = s.keysDown := by simp only [State.loadRegisters]
@[simp] theorem loadRegisters_keysReleased (s : State) (x : Reg) : (s.loadRegisters x).keysReleased = s.keysReleased := by simp only [State.loadRegisters]
@[simp] theorem loadRegisters_stepsLeft (s : State) (x : Reg) : (s.loadRegisters x).stepsLeft = s.stepsLeft := by simp only [State.loadRegisters]
@[simp] theorem loadRegisters_result (s : State) (x : Reg) : (s.loadRegisters x).result = s.result := by simp only [State.loadRegisters]
@[simp] theorem loadRegisters_requests (s : State) (x : Reg) : (s.loadRegisters x).requests = s.requests := by simp only [State.loadRegisters]
@[simp] theorem loadRegisters_ticks (s : State) (x : Reg) : (s.loadRegisters x).ticks = s.ticks := by simp only [State.loadRegisters]
@[simp] theorem loadRegisters_draws (s : State) (x : Reg) : (s.loadRegisters x).draws = s.draws := by simp only [State.loadRegisters]

/-! ### openTick -/

@[simp] theorem openTick_cfg (s : State) : (openTick s).cfg = s.cfg := rfl
@[simp] theorem openTick_v (s : State) : (openTick s).v = s.v := rfl
@[simp] theorem openTick_pc (s : State) : (openTick s).pc = s.pc := rfl
@[simp] theorem openTick_index (s : State) : (openTick s).index = s.index := rfl
@[simp] theorem openTick_stack (s : State) : (openTick s).stack = s.stack := rfl
@[simp] theorem openTick_fb (s : State) : (openTick s).fb = s.fb := rfl
@[simp] theorem openTick_hires (s : State) : (openTick s).hires = s.hires := rfl
@[simp] theorem openTick_running (s : State) : (openTick s).running = s.running := rfl
@[simp] theorem openTick_halted (s : State) : (openTick s).halted = s.halted := rfl
@[simp] theorem openTick_lastError (s : State) : (openTick s).lastError = s.lastError := rfl
@[simp] theorem openTick_mem (s : State) : (openTick s).mem = s.mem := rfl
@[simp] theorem openTick_result (s : State) : (openTick s).result = s.result := rfl
@[simp] theorem openTick_draws (s : State) : (openTick s).draws = s.draws := rfl

/-! ### closeStep -/

@[simp] theorem closeStep_cfg (s : State) : (closeStep s).cfg = s.cfg := rfl
@[simp] theorem closeStep_v (s : State) : (closeStep s).v = s.v := rfl
@[simp] theorem closeStep_pc (s : State) : (closeStep s).pc = s.pc := rfl
@[simp] theorem closeStep_index (s : State) : (closeStep s).index = s.index := rfl
@[simp] theorem closeStep_stack (s : State) : (closeStep s).stack = s.stack := rfl
@[simp] theorem closeStep_dt (s : State) : (closeStep s).dt = s.dt := rfl
@[simp] theorem closeStep_st (s : State) : (closeStep s).st = s.st := rfl
@[simp] theorem closeStep_fb (s : State) : (closeStep s).fb = s.fb := rfl
@[simp] theorem closeStep_hires (s : State) : (closeStep s).hires = s.hires := rfl
@[simp] theorem closeStep_running (s : State) : (closeStep s).running = s.running := rfl
@[simp] theorem closeStep_halted (s : State) : (closeStep s).halted = s.halted := rfl
@[simp] theorem closeStep_lastError (s : State) : (closeStep s).lastError = s.lastError := rfl
@[simp] theorem closeStep_mem (s : State) : (closeStep s).mem = s.mem := rfl
@[simp] theorem closeStep_keysDown (s : State) : (closeStep s).keysDown = s.keysDown := rfl
@[simp] theorem closeStep_keysReleased (s : State) : (closeStep s).keysReleased = s.keysReleased := rfl
@[simp] theorem closeStep_stepsLeft (s : State) : (closeStep s).stepsLeft = (if s.exited then 0 else s.stepsLeft - 1) := rfl
@[simp] theorem closeStep_result (s : State) : (closeStep s).result = (if s.stepsLeft ≠ 0 ∧ (s.exited = true ∨ s.stepsLeft = 1) then some .ok else s.result) := rfl
@[simp] theorem closeStep_requests (s : State) : (closeStep s).requests = s.requests := rfl
@[simp] theorem closeStep_ticks (s : State) : (closeStep s).ticks = s.ticks := rfl
@[simp] theorem closeStep_draws (s : State) : (closeStep s).draws = s.draws := rfl

/-! ### answerTick -/

@[simp] theorem answerTick_cfg (s : State) (r : TickResult) : (answerTick s r).cfg = s.cfg := rfl
@[simp] theorem answerTick_v (s : State) (r : TickResult) : (answerTick s r).v = s.v := rfl
@[simp] theorem answerTick_pc (s : State) (r : TickResult) : (answerTick s r).pc = s.pc := rfl
@[simp] theorem answerTick_index (s : State) (r : TickResult) : (answerTick s r).index = s.index := rfl
@[simp] theorem answerTick_stack (s : State) (r : TickResult) : (answerTick s r).stack = s.stack := rfl
@[simp] theorem answerTick_dt (s : State) (r : TickResult) : (answerTick s r).dt = s.dt := rfl
@[simp] theorem answerTick_st (s : State) (r : TickResult) : (answerTick s r).st = s.st := rfl
@[simp] theorem answerTick_fb (s : State) (r : TickResult) : (answerTick s r).fb = s.fb := rfl
@[simp] theorem answerTick_hires (s : State) (r : TickResult) : (answerTick s r).hires = s.hires := rfl
@[simp] theorem answerTick_running (s : State) (r : TickResult) : (answerTick s r).running = s.running := rfl
@[simp] theorem answerTick_halted (s : State) (r : TickResult) : (answerTick s r).halted = s.halted := rfl
@[simp] theorem answerTick_lastError (s : State) (r : TickResult) : (answerTick s r).lastError = s.lastError := rfl
@[simp] theorem answerTick_mem (s : State) (r : TickResult) : (answerTick s r).mem = s.mem := rfl
@[simp] theorem answerTick_keysDown (s : State) (r : TickResult) : (answerTick s r).keysDown = s.keysDown := rfl
@[simp] theorem answerTick_keysReleased (s : State) (r : TickResult) : (answerTick s r).keysReleased = s.keysReleased := rfl
@[simp] theorem answerTick_stepsLeft (s : State) (r : TickResult) : (answerTick s r).stepsLeft = s.stepsLeft := rfl
@[simp] theorem answerTick_result (s : State) (r : TickResult) : (answerTick s r).result = some r := rfl
@[simp] theorem answerTick_requests (s : State) (r : TickResult) : (answerTick s r).requests = s.requests.tail := rfl
@[simp] theorem answerTick_ticks (s : State) (r : TickResult) : (answerTick s r).ticks = s.ticks + 1 := rfl
@[simp] theorem answerTick_draws (s : State) (r : TickResult) : (answerTick s r).draws = s.draws := rfl

end Sys2Proof.Machine
end

