-- ==== Sys2Proof/Laws/Exec.lean ====
section
/-! SUPPORT. What executing an instruction can do to the error state and to the tick: it raises one error of its own, or it
leaves them alone. The next states of the instructions whose meaning has more than one. -/

namespace Sys2Proof.Machine

/-! ### The instructions with two ends -/

theorem exec_ret_cons {s : State} {a : Word} {rest : List Word} (h : s.stack = a :: rest) :
    exec .ret s = .next { s with stack := rest, pc := a } := by
  simp only [exec, execReturn, h]

theorem exec_ret_nil {s : State} (h : s.stack = []) : exec .ret s = .next (s.raiseIn .stackUnderflow .ret) := by
  simp only [exec, execReturn, h]

theorem exec_call_room {s : State} (nnn : Addr12) (h : s.stack.length < s.cfg.stackDepth) :
    exec (.call nnn) s = .next ((s.push s.pc).setPc (addressOf nnn)) := by
  simp only [exec, execCall, if_neg (Nat.not_le.2 h)]

theorem exec_call_full {s : State} (nnn : Addr12) (h : s.cfg.stackDepth ≤ s.stack.length) :
    exec (.call nnn) s = .next (s.raiseIn .stackOverflow (.call nnn)) := by
  simp only [exec, execCall, if_pos h]

theorem exec_skipIfKey_some {s : State} {x : Reg} {down : Bool} (h : s.keyDown (s.reg x) = some down) :
    exec (.skipIfKey x) s = .next (if down then s.skipNext else s) := by
  simp only [exec, execSkipIfKey, h]

theorem exec_skipIfKey_none {s : State} {x : Reg} (h : s.keyDown (s.reg x) = none) :
    exec (.skipIfKey x) s = .next (s.raiseIn .keyOutOfRange (.skipIfKey x)) := by
  simp only [exec, execSkipIfKey, h]

theorem exec_skipIfNotKey_some {s : State} {x : Reg} {down : Bool} (h : s.keyDown (s.reg x) = some down) :
    exec (.skipIfNotKey x) s = .next (if down then s else s.skipNext) := by
  simp only [exec, execSkipIfNotKey, h]

theorem exec_skipIfNotKey_none {s : State} {x : Reg} (h : s.keyDown (s.reg x) = none) :
    exec (.skipIfNotKey x) s = .next (s.raiseIn .keyOutOfRange (.skipIfNotKey x)) := by
  simp only [exec, execSkipIfNotKey, h]

theorem exec_getKey_some {s : State} (x : Reg) {k : Nat} (h : lowestKey s.keysReleased = some k) :
    exec (.getKey x) s = .next (s.setReg x (BitVec.ofNat 8 k)) := by
  simp only [exec, execGetKey, h]

theorem exec_getKey_none {s : State} (x : Reg) (h : lowestKey s.keysReleased = none) :
    exec (.getKey x) s = .next (s.setPc (s.pc - 2)) := by
  simp only [exec, execGetKey, h]

theorem exec_decimalConversion_inside {s : State} (x : Reg) (h : inMemory s.index.toNat 3 = true) :
    exec (.decimalConversion x) s = .next (s.writeBytes s.index.toNat (decimalDigits (s.reg x))) := by
  simp only [exec, execDecimalConversion, if_pos h]

theorem exec_decimalConversion_outside {s : State} (x : Reg) (h : ¬inMemory s.index.toNat 3 = true) :
    exec (.decimalConversion x) s = .next (s.raiseIn (.outOfMemory .data) (.decimalConversion x)) := by
  simp only [exec, execDecimalConversion, if_neg h]

theorem exec_storeMemory_inside {s : State} (x : Reg) (h : inMemory s.index.toNat (registerCount x) = true) :
    exec (.storeMemory x) s = .next (s.writeBytes s.index.toNat (s.registersUpTo x)) := by
  simp only [exec, execStoreMemory, if_pos h]

theorem exec_storeMemory_outside {s : State} (x : Reg) (h : ¬inMemory s.index.toNat (registerCount x) = true) :
    exec (.storeMemory x) s = .next (s.raiseIn (.outOfMemory .data) (.storeMemory x)) := by
  simp only [exec, execStoreMemory, if_neg h]

theorem exec_loadMemory_inside {s : State} (x : Reg) (h : inMemory s.index.toNat (registerCount x) = true) :
    exec (.loadMemory x) s = .next (s.loadRegisters x) := by
  simp only [exec, execLoadMemory, if_pos h]

theorem exec_loadMemory_outside {s : State} (x : Reg) (h : ¬inMemory s.index.toNat (registerCount x) = true) :
    exec (.loadMemory x) s = .next (s.raiseIn (.outOfMemory .data) (.loadMemory x)) := by
  simp only [exec, execLoadMemory, if_neg h]

/-- The state a `Draw` leaves when its sprite bytes exist. -/
def drawnState (s : State) (x y : Reg) (n : Nibble) : State :=
  State.setReg { s with fb := (drawPixels s.fb (s.spritePixels (s.geometryOf x y n))).1 } VF
    (flagByte (drawPixels s.fb (s.spritePixels (s.geometryOf x y n))).2)

theorem exec_draw_inside {s : State} (x y : Reg) (n : Nibble)
    (h : inMemory s.index.toNat (s.geometryOf x y n).bytes = true) :
    exec (.draw x y n) s = .next (drawnState s x y n) := by
  simp only [exec, execDraw, if_pos h, drawnState]

theorem exec_draw_outside {s : State} (x y : Reg) (n : Nibble)
    (h : ¬inMemory s.index.toNat (s.geometryOf x y n).bytes = true) :
    exec (.draw x y n) s = .next (s.raiseIn (.outOfMemory .data) (.draw x y n)) := by
  simp only [exec, execDraw, if_neg h]

/-! ### Every instruction -/

/-- `t` has the error state and the tick of `s`. -/
abbrev Quiet (s t : State) : Prop :=
  t.lastError = s.lastError ∧ t.halted = s.halted ∧ t.result = s.result ∧ t.stepsLeft = s.stepsLeft

/-- The errors an instruction can raise while it executes in a state. -/
abbrev Raisable (i : Instr) (s : State) (k : ErrorKind) : Prop :=
  k ≠ .unknownOpcode ∧ k ≠ .outOfMemory .fetch ∧ (k = .variantMismatch ↔ i.validFor s.cfg.variant = false)

/-- Executing `i` in `s` raises one error and does nothing else, or touches neither the error state nor the tick. -/
abbrev Ends (i : Instr) (s : State) : Prop :=
  (∃ k, exec i s = .next (s.raiseIn k i) ∧ Raisable i s k) ∨
    (i.validFor s.cfg.variant = true ∧ ∃ t, exec i s = .next t ∧ Quiet s t)

theorem valid_of_chip8 {i : Instr} (s : State) (h : i.validFor .chip8 = true) : i.validFor s.cfg.variant = true := by
  cases s.cfg.variant
  · exact h
  · rfl

theorem ends_gated {i : Instr} {s e : State} (he : exec i s = schipOnly i s e) (hv : i.validFor .chip8 = false)
    (hq : Quiet s e) : Ends i s := by
  rcases schipOnly_cases i s e with ⟨h, hh⟩ | ⟨h, hh⟩ <;> rw [hh] at he <;> unfold Ends Raisable <;> rw [h]
  · exact .inr ⟨rfl, e, he, hq⟩
  · exact .inl ⟨_, he, by simp, by simp, by simp [hv]⟩

theorem ends_quiet {i : Instr} {s e : State} (he : exec i s = .next e) (hv : i.validFor .chip8 = true)
    (hq : Quiet s e) : Ends i s :=
  .inr ⟨valid_of_chip8 s hv, e, he, hq⟩

theorem ends_raise {i : Instr} {s : State} {k : ErrorKind} (he : exec i s = .next (s.raiseIn k i))
    (hv : i.validFor .chip8 = true) (hk : k ≠ .unknownOpcode ∧ k ≠ .outOfMemory .fetch ∧ k ≠ .variantMismatch) :
    Ends i s :=
  .inl ⟨k, he, hk.1, hk.2.1, by simp [hk.2.2, valid_of_chip8 s hv]⟩

/-- What executing an instruction can do to the error state and to the tick (R124, R126). -/
theorem exec_cases (i : Instr) (s : State) : Ends i s := by
  cases i with
  | clearScreen | setImm | addImm | set | or | and | xor | add | sub | rightShift | subReverse | leftShift | jump
  | setIndex | jumpOffset | random | getDelay | setDelay | setSound | addIndex | setIndexFont =>
    exact ends_quiet rfl rfl ⟨rfl, rfl, rfl, rfl⟩
  | scrollDown | scrollRight | scrollLeft | exit | lores | hires | setIndexBigFont | saveFlags | loadFlags =>
    exact ends_gated rfl rfl ⟨rfl, rfl, rfl, rfl⟩
  | ret =>
    rcases h : s.stack with _ | ⟨a, rest⟩
    · exact ends_raise (exec_ret_nil h) rfl (by simp)
    · exact ends_quiet (exec_ret_cons h) rfl ⟨rfl, rfl, rfl, rfl⟩
  | call nnn =>
    rcases Nat.lt_or_ge s.stack.length s.cfg.stackDepth with h | h
    · exact ends_quiet (exec_call_room nnn h) rfl ⟨rfl, rfl, rfl, rfl⟩
    · exact ends_raise (exec_call_full nnn h) rfl (by simp)
  | skipEqImm | skipNeImm | skipEqReg | skipNeReg =>
    refine ends_quiet rfl rfl ?_
    split <;> exact ⟨rfl, rfl, rfl, rfl⟩
  | skipIfKey x =>
    rcases h : s.keyDown (s.reg x) with _ | d
    · exact ends_raise (exec_skipIfKey_none h) rfl (by simp)
    · refine ends_quiet (exec_skipIfKey_some h) rfl ?_
      split <;> exact ⟨rfl, rfl, rfl, rfl⟩
  | skipIfNotKey x =>
    rcases h : s.keyDown (s.reg x) with _ | d
    · exact ends_raise (exec_skipIfNotKey_none h) rfl (by simp)
    · refine ends_quiet (exec_skipIfNotKey_some h) rfl ?_
      split <;> exact ⟨rfl, rfl, rfl, rfl⟩
  | getKey x =>
    rcases h : lowestKey s.keysReleased with _ | k
    · exact ends_quiet (exec_getKey_none x h) rfl ⟨rfl, rfl, rfl, rfl⟩
    · exact ends_quiet (exec_getKey_some x h) rfl ⟨rfl, rfl, rfl, rfl⟩
  | draw x y n =>
    by_cases h : inMemory s.index.toNat (s.geometryOf x y n).bytes = true
    · exact ends_quiet (exec_draw_inside x y n h) rfl ⟨rfl, rfl, rfl, rfl⟩
    · exact ends_raise (exec_draw_outside x y n h) rfl (by simp)
  | decimalConversion x =>
    by_cases h : inMemory s.index.toNat 3 = true
    · exact ends_quiet (exec_decimalConversion_inside x h) rfl ⟨rfl, rfl, rfl, rfl⟩
    · exact ends_raise (exec_decimalConversion_outside x h) rfl (by simp)
  | storeMemory x =>
    by_cases h : inMemory s.index.toNat (registerCount x) = true
    · exact ends_quiet (exec_storeMemory_inside x h) rfl ⟨rfl, rfl, rfl, rfl⟩
    · exact ends_raise (exec_storeMemory_outside x h) rfl (by simp)
  | loadMemory x =>
    by_cases h : inMemory s.index.toNat (registerCount x) = true
    · exact ends_quiet (exec_loadMemory_inside x h) rfl ⟨by simp, by simp, by simp, by simp⟩
    · exact ends_raise (exec_loadMemory_outside x h) rfl (by simp)

/-- No instruction ends in a fault or a refusal. -/
theorem exec_next (i : Instr) (s : State) : ∃ t, exec i s = .next t := by
  rcases exec_cases i s with ⟨_, h, -⟩ | ⟨-, t, h, -⟩
  · exact ⟨_, h⟩
  · exact ⟨t, h⟩

end Sys2Proof.Machine
end

