-- ==== Sys2Proof/Laws/PerInstr.lean ====
section
/-! SUPPORT. For every instruction: its word, under the mask of its row of spec/opcode_table.json, is the row's match. The
masks and matches are copied from that table, not computed from the encoder. -/

namespace Sys2Proof.Laws.TableRow

/-- The `mask` of an instruction's row. -/
def rowMask : Instr → Word
  | .clearScreen => 0xFFFF#16
  | .ret => 0xFFFF#16
  | .scrollDown _ => 0xFFF0#16
  | .scrollRight => 0xFFFF#16
  | .scrollLeft => 0xFFFF#16
  | .exit => 0xFFFF#16
  | .lores => 0xFFFF#16
  | .hires => 0xFFFF#16
  | .jump _ => 0xF000#16
  | .call _ => 0xF000#16
  | .skipEqImm _ _ => 0xF000#16
  | .skipNeImm _ _ => 0xF000#16
  | .skipEqReg _ _ => 0xF00F#16
  | .setImm _ _ => 0xF000#16
  | .addImm _ _ => 0xF000#16
  | .set _ _ => 0xF00F#16
  | .or _ _ => 0xF00F#16
  | .and _ _ => 0xF00F#16
  | .xor _ _ => 0xF00F#16
  | .add _ _ => 0xF00F#16
  | .sub _ _ => 0xF00F#16
  | .rightShift _ _ => 0xF00F#16
  | .subReverse _ _ => 0xF00F#16
  | .leftShift _ _ => 0xF00F#16
  | .skipNeReg _ _ => 0xF00F#16
  | .setIndex _ => 0xF000#16
  | .jumpOffset _ => 0xF000#16
  | .random _ _ => 0xF000#16
  | .draw _ _ _ => 0xF000#16
  | .skipIfKey _ => 0xF0FF#16
  | .skipIfNotKey _ => 0xF0FF#16
  | .getDelay _ => 0xF0FF#16
  | .getKey _ => 0xF0FF#16
  | .setDelay _ => 0xF0FF#16
  | .setSound _ => 0xF0FF#16
  | .addIndex _ => 0xF0FF#16
  | .setIndexFont _ => 0xF0FF#16
  | .setIndexBigFont _ => 0xF0FF#16
  | .decimalConversion _ => 0xF0FF#16
  | .storeMemory _ => 0xF0FF#16
  | .loadMemory _ => 0xF0FF#16
  | .saveFlags _ => 0xF0FF#16
  | .loadFlags _ => 0xF0FF#16

/-- The `match` of an instruction's row. -/
def rowMatch : Instr → Word
  | .clearScreen => 0x00E0#16
  | .ret => 0x00EE#16
  | .scrollDown _ => 0x00C0#16
  | .scrollRight => 0x00FB#16
  | .scrollLeft => 0x00FC#16
  | .exit => 0x00FD#16
  | .lores => 0x00FE#16
  | .hires => 0x00FF#16
  | .jump _ => 0x1000#16
  | .call _ => 0x2000#16
  | .skipEqImm _ _ => 0x3000#16
  | .skipNeImm _ _ => 0x4000#16
  | .skipEqReg _ _ => 0x5000#16
  | .setImm _ _ => 0x6000#16
  | .addImm _ _ => 0x7000#16
  | .set _ _ => 0x8000#16
  | .or _ _ => 0x8001#16
  | .and _ _ => 0x8002#16
  | .xor _ _ => 0x8003#16
  | .add _ _ => 0x8004#16
  | .sub _ _ => 0x8005#16
  | .rightShift _ _ => 0x8006#16
  | .subReverse _ _ => 0x8007#16
  | .leftShift _ _ => 0x800E#16
  | .skipNeReg _ _ => 0x9000#16
  | .setIndex _ => 0xA000#16
  | .jumpOffset _ => 0xB000#16
  | .random _ _ => 0xC000#16
  | .draw _ _ _ => 0xD000#16
  | .skipIfKey _ => 0xE09E#16
  | .skipIfNotKey _ => 0xE0A1#16
  | .getDelay _ => 0xF007#16
  | .getKey _ => 0xF00A#16
  | .setDelay _ => 0xF015#16
  | .setSound _ => 0xF018#16
  | .addIndex _ => 0xF01E#16
  | .setIndexFont _ => 0xF029#16
  | .setIndexBigFont _ => 0xF030#16
  | .decimalConversion _ => 0xF033#16
  | .storeMemory _ => 0xF055#16
  | .loadMemory _ => 0xF065#16
  | .saveFlags _ => 0xF075#16
  | .loadFlags _ => 0xF085#16

/-- The word of an instruction is a word of its row. -/
def Statement (i : Instr) : Prop := encode i &&& rowMask i = rowMatch i

/-! ### A word under a mask -/

theorem keep (b : Nibble) : b &&& 0xF#4 = b := BitVec.and_allOnes

theorem mask_xy (g s : Nibble) (x y : Reg) : encodeXY g x y s &&& 0xF00F#16 = g ++ 0#4 ++ 0#4 ++ s := by
  have h : 0xF00F#16 = 0xF#4 ++ 0#4 ++ 0#4 ++ 0xF#4 := rfl
  rw [h, encodeXY, BitVec.and_append, BitVec.and_append, BitVec.and_append, keep, keep, BitVec.and_zero, BitVec.and_zero]

theorem mask_xyn (g s : Nibble) (x y : Reg) : encodeXY g x y s &&& 0xF000#16 = g ++ 0#4 ++ 0#4 ++ 0#4 := by
  have h : 0xF000#16 = 0xF#4 ++ 0#4 ++ 0#4 ++ 0#4 := rfl
  rw [h, encodeXY, BitVec.and_append, BitVec.and_append, BitVec.and_append, keep, BitVec.and_zero, BitVec.and_zero,
    BitVec.and_zero]

theorem mask_xnn (g : Nibble) (x : Reg) (nn : Byte) : encodeXNN g x nn &&& 0xF000#16 = g ++ 0#4 ++ 0#8 := by
  have h : 0xF000#16 = 0xF#4 ++ 0#4 ++ 0#8 := rfl
  rw [h, encodeXNN, BitVec.and_append, BitVec.and_append, keep, BitVec.and_zero, BitVec.and_zero]

theorem mask_xss (g : Nibble) (x : Reg) (s : Byte) : encodeXNN g x s &&& 0xF0FF#16 = g ++ 0#4 ++ s := by
  have h : 0xF0FF#16 = 0xF#4 ++ 0#4 ++ 0xFF#8 := rfl
  have k : s &&& 0xFF#8 = s := BitVec.and_allOnes
  rw [h, encodeXNN, BitVec.and_append, BitVec.and_append, keep, BitVec.and_zero, k]

theorem mask_nnn (g : Nibble) (nnn : Addr12) : encodeNNN g nnn &&& 0xF000#16 = g ++ 0#12 := by
  have h : 0xF000#16 = 0xF#4 ++ 0#12 := rfl
  rw [h, encodeNNN, BitVec.and_append, keep, BitVec.and_zero]

/-! ### Every instruction -/

theorem clearScreen : Statement .clearScreen := rfl
theorem ret : Statement .ret := rfl
theorem scrollDown (n : Nibble) : Statement (.scrollDown n) := by
  show 0x00C#12 ++ n &&& 0xFFF0#16 = 0x00C0#16
  revert n; decide
theorem scrollRight : Statement .scrollRight := rfl
theorem scrollLeft : Statement .scrollLeft := rfl
theorem exit : Statement .exit := rfl
theorem lores : Statement .lores := rfl
theorem hires : Statement .hires := rfl
theorem jump (nnn : Addr12) : Statement (.jump nnn) := mask_nnn _ nnn
theorem call (nnn : Addr12) : Statement (.call nnn) := mask_nnn _ nnn
theorem skipEqImm (x : Reg) (nn : Byte) : Statement (.skipEqImm x nn) := mask_xnn _ x nn
theorem skipNeImm (x : Reg) (nn : Byte) : Statement (.skipNeImm x nn) := mask_xnn _ x nn
theorem skipEqReg (x : Reg) (y : Reg) : Statement (.skipEqReg x y) := mask_xy _ _ x y
theorem setImm (x : Reg) (nn : Byte) : Statement (.setImm x nn) := mask_xnn _ x nn
theorem addImm (x : Reg) (nn : Byte) : Statement (.addImm x nn) := mask_xnn _ x nn
theorem set (x : Reg) (y : Reg) : Statement (.set x y) := mask_xy _ _ x y
theorem or (x : Reg) (y : Reg) : Statement (.or x y) := mask_xy _ _ x y
theorem and (x : Reg) (y : Reg) : Statement (.and x y) := mask_xy _ _ x y
theorem xor (x : Reg) (y : Reg) : Statement (.xor x y) := mask_xy _ _ x y
theorem add (x : Reg) (y : Reg) : Statement (.add x y) := mask_xy _ _ x y
theorem sub (x : Reg) (y : Reg) : Statement (.sub x y) := mask_xy _ _ x y
theorem rightShift (x : Reg) (y : Reg) : Statement (.rightShift x y) := mask_xy _ _ x y
theorem subReverse (x : Reg) (y : Reg) : Statement (.subReverse x y) := mask_xy _ _ x y
theorem leftShift (x : Reg) (y : Reg) : Statement (.leftShift x y) := mask_xy _ _ x y
theorem skipNeReg (x : Reg) (y : Reg) : Statement (.skipNeReg x y) := mask_xy _ _ x y
theorem setIndex (nnn : Addr12) : Statement (.setIndex nnn) := mask_nnn _ nnn
theorem jumpOffset (nnn : Addr12) : Statement (.jumpOffset nnn) := mask_nnn _ nnn
theorem random (x : Reg) (nn : Byte) : Statement (.random x nn) := mask_xnn _ x nn
theorem draw (x : Reg) (y : Reg) (n : Nibble) : Statement (.draw x y n) := mask_xyn _ n x y
theorem skipIfKey (x : Reg) : Statement (.skipIfKey x) := mask_xss _ x _
theorem skipIfNotKey (x : Reg) : Statement (.skipIfNotKey x) := mask_xss _ x _
theorem getDelay (x : Reg) : Statement (.getDelay x) := mask_xss _ x _
theorem getKey (x : Reg) : Statement (.getKey x) := mask_xss _ x _
theorem setDelay (x : Reg) : Statement (.setDelay x) := mask_xss _ x _
theorem setSound (x : Reg) : Statement (.setSound x) := mask_xss _ x _
theorem addIndex (x : Reg) : Statement (.addIndex x) := mask_xss _ x _
theorem setIndexFont (x : Reg) : Statement (.setIndexFont x) := mask_xss _ x _
theorem setIndexBigFont (x : Reg) : Statement (.setIndexBigFont x) := mask_xss _ x _
theorem decimalConversion (x : Reg) : Statement (.decimalConversion x) := mask_xss _ x _
theorem storeMemory (x : Reg) : Statement (.storeMemory x) := mask_xss _ x _
theorem loadMemory (x : Reg) : Statement (.loadMemory x) := mask_xss _ x _
theorem saveFlags (x : Reg) : Statement (.saveFlags x) := mask_xss _ x _
theorem loadFlags (x : Reg) : Statement (.loadFlags x) := mask_xss _ x _

end Sys2Proof.Laws.TableRow
end

