-- ==== Sys2Proof/Laws/Step.lean ====
section
/-! SUPPORT. The step and the tick: the inversion of the step, the fetch before and after a tick is opened, the bounds of a
tick, and the canonical form of memory at reset. -/

namespace Sys2Proof.Machine

/-! ### The step -/

@[simp] theorem thenDo_next (t : State) (f : State → State) : thenDo (.next t) f = .next (f t) := rfl

theorem fetchAndExecute_of_fails {s : State} (h : memSize ≤ s.pc.toNat + 1) :
    fetchAndExecute s = .next (s.raise ⟨.outOfMemory .fetch, none, s.pc⟩) := by
  simp only [fetchAndExecute, fetchFails, decide_eq_true h, if_true]

theorem fetchAndExecute_of_ok {s : State} {i : Instr} (h : s.pc.toNat + 1 < memSize)
    (hd : decode (s.fetchWord s.pc.toNat) = .ok i) : fetchAndExecute s = exec i s.advance := by
  simp only [fetchAndExecute, fetchFails, decide_eq_false (Nat.not_le.2 h), Bool.false_eq_true, if_false, hd]

theorem fetchAndExecute_of_error {s : State} {e : DecodeError} (h : s.pc.toNat + 1 < memSize)
    (hd : decode (s.fetchWord s.pc.toNat) = .error e) :
    fetchAndExecute s = .next (s.advance.raise ⟨.unknownOpcode, some (s.fetchWord s.pc.toNat), s.pc⟩) := by
  simp only [fetchAndExecute, fetchFails, decide_eq_false (Nat.not_le.2 h), Bool.false_eq_true, if_false, hd]

/-- Everything the fetch, the decoding and the execution of one instruction can do (R59, R60). -/
theorem fetchAndExecute_cases (s : State) :
    (memSize ≤ s.pc.toNat + 1 ∧ fetchAndExecute s = .next (s.raise ⟨.outOfMemory .fetch, none, s.pc⟩)) ∨
    (s.pc.toNat + 1 < memSize ∧ ∃ i, decode (s.fetchWord s.pc.toNat) = .ok i ∧ fetchAndExecute s = exec i s.advance) ∨
    (s.pc.toNat + 1 < memSize ∧ ∃ e, decode (s.fetchWord s.pc.toNat) = .error e ∧
      fetchAndExecute s = .next (s.advance.raise ⟨.unknownOpcode, some (s.fetchWord s.pc.toNat), s.pc⟩)) := by
  rcases Nat.lt_or_ge (s.pc.toNat + 1) memSize with h | h
  · rcases hd : decode (s.fetchWord s.pc.toNat) with e | i
    · exact .inr (.inr ⟨h, e, rfl, fetchAndExecute_of_error h hd⟩)
    · exact .inr (.inl ⟨h, i, rfl, fetchAndExecute_of_ok h hd⟩)
  · exact .inl ⟨h, fetchAndExecute_of_fails h⟩

theorem step_of_halted {s : State} (h : s.halted = true) : step s = .next (answerTick s .halted) := by
  simp only [step, h, if_true]

theorem step_of_exited {s : State} (h : s.halted = false) (he : s.exited = true) :
    step s = .next (answerTick s .ok) := by
  simp only [step, h, he, if_true, Bool.false_eq_true, if_false]

theorem step_of_speed {s : State} (h : s.halted = false) (he : s.exited = false) (hs : s.cfg.speed ≤ 0) :
    step s = .refused .speedNotPositive := by
  simp only [step, h, he, hs, if_true, Bool.false_eq_true, if_false]

theorem step_of_runs {s : State} (h : s.halted = false) (he : s.exited = false) (hs : 0 < s.cfg.speed) :
    step s = thenDo (fetchAndExecute (openTick s)) closeStep := by
  simp only [step, h, he, not_le.2 hs, Bool.false_eq_true, if_false]

/-- Everything a step can do. -/
theorem step_cases (s : State) :
    (s.halted = true ∧ step s = .next (answerTick s .halted)) ∨
    (s.halted = false ∧ s.exited = true ∧ step s = .next (answerTick s .ok)) ∨
    (s.halted = false ∧ s.exited = false ∧ s.cfg.speed ≤ 0 ∧ step s = .refused .speedNotPositive) ∨
    (s.halted = false ∧ s.exited = false ∧ 0 < s.cfg.speed ∧
      step s = thenDo (fetchAndExecute (openTick s)) closeStep) := by
  rcases h : s.halted with _ | _
  · rcases he : s.exited with _ | _
    · rcases le_or_gt s.cfg.speed 0 with hs | hs
      · exact .inr (.inr (.inl ⟨rfl, rfl, hs, step_of_speed h he hs⟩))
      · exact .inr (.inr (.inr ⟨rfl, rfl, hs, step_of_runs h he hs⟩))
    · exact .inr (.inl ⟨rfl, rfl, step_of_exited h he⟩)
  · exact .inl ⟨rfl, step_of_halted h⟩

/-! ### The tick -/

theorem exited_eq_false_iff (s : State) : s.exited = false ↔ (s.cfg.variant = .schip → s.running = true) := by
  unfold State.exited
  cases s.cfg.variant <;> cases s.running <;> simp

theorem openTick_of_open {s : State} (h : s.stepsLeft ≠ 0) : openTick s = s := by
  have : s.atTickStart = false := by simpa [State.atTickStart] using h
  simp [openTick, this]

theorem openTick_of_start {s : State} (h : s.stepsLeft = 0) :
    openTick s = { s with
      dt := satDec s.dt, st := satDec s.st
      keysDown := s.nextRequest.keysDown, keysReleased := s.nextRequest.keysReleased
      stepsLeft := tickSteps s.cfg s.nextRequest.steps, requests := s.requests.tail, ticks := s.ticks + 1 } := by
  have : s.atTickStart = true := by simpa [State.atTickStart] using h
  simp [openTick, this]

/-- Opening a tick changes neither the bytes fetched nor where they are fetched from. -/
theorem fetchWord_openTick (s : State) (a : Nat) : (openTick s).fetchWord a = s.fetchWord a :=
  fetchWord_congr rfl rfl a

theorem tickSteps_pos (c : Config) (k : Nat) : 1 ≤ tickSteps c k := Nat.le_max_left _ _

theorem stepsLeft_openTick_pos (s : State) : 1 ≤ (openTick s).stepsLeft := by
  rcases Nat.eq_zero_or_pos s.stepsLeft with h | h
  · rw [openTick_of_start h]; exact tickSteps_pos _ _
  · rw [openTick_of_open (by omega)]; exact h

theorem stepCap_pos {c : Config} (h : 0 < c.speed) : 1 ≤ stepCap c := by
  have hn : 0 < c.speed.num := Rat.num_pos.2 h
  have hd : 0 < c.speed.den := c.speed.pos
  show 1 ≤ (c.speed.num.toNat + 60 * c.speed.den - 1) / (60 * c.speed.den)
  rw [Nat.one_le_div_iff (by omega)]
  omega

theorem tickSteps_le_stepCap {c : Config} (k : Nat) (ht : c.throttled = true) (h : 0 < c.speed) :
    tickSteps c k ≤ stepCap c := by
  have := stepCap_pos h
  simp only [tickSteps, ht, if_true]
  omega

/-! ### What the host sees -/

theorem hostView_between {s : State} (h : s.stepsLeft = 0) :
    s.hostView = some ⟨s.display, s.soundActive, s.runningPort, s.haltedPort, s.resultPort⟩ := by
  simp [State.hostView, State.betweenTicks, h]

theorem hostView_inside {s : State} (h : s.stepsLeft ≠ 0) : s.hostView = none := by
  simp [State.hostView, State.betweenTicks, h]

theorem hostView_eq_none_iff (s : State) : s.hostView = none ↔ s.stepsLeft ≠ 0 := by
  by_cases h : s.stepsLeft = 0
  · simp [hostView_between h, h]
  · simp [hostView_inside h, h]

/-! ### Runs -/

theorem run_succ {s t : State} (k : Nat) (h : step s = .next t) :
    Sys2Proof.core.run (k + 1) s = Sys2Proof.core.run k t := by
  have h' : Sys2Proof.core.step s = .next t := h
  simp only [Host.Core.run, h']

theorem run_one {s t : State} (h : step s = .next t) : Sys2Proof.core.run 1 s = .next t := run_succ 0 h

/-! ### Reset -/

/-- Reset memory has the canonical form. -/
theorem wf_reset : Memory.wf State.reset.cfg State.reset.mem := Memory.wf_nil _

/-- Memory built for an image has the canonical form. -/
theorem wf_construct {c : Config} {image : List Byte} {s : State} (h : construct c image = some s) :
    Memory.wf s.cfg s.mem := by
  unfold construct at h
  split at h
  · cases h; exact Memory.wf_writeAll c _ _ _ (Memory.wf_nil c)
  · cases h

end Sys2Proof.Machine
end

