-- ==== Sys2Proof/Machine/Disassembly.lean ====
section
/-! DEFINITION. The assembly syntax of 30_encoding.md R58, in which the spec writes its examples: a mnemonic, then operands
separated by commas. Nothing of the machine reads it. -/

namespace Sys2Proof

/-- A hex digit. -/
def hexText (n : Nibble) : String :=
  String.singleton (['0', '1', '2', '3', '4', '5', '6', '7', '8', '9', 'A', 'B', 'C', 'D', 'E', 'F'][n.toNat]?.getD '0')

/-- `V0` to `VF`. -/
def regText (r : Reg) : String := "V" ++ hexText (BitVec.ofFin r)

/-- `0xNN`. -/
def byteText (b : Byte) : String := "0x" ++ hexText (b.extractLsb' 4 4) ++ hexText (b.extractLsb' 0 4)

/-- `0xNNN`. -/
def addressText (a : Addr12) : String :=
  "0x" ++ hexText (a.extractLsb' 8 4) ++ hexText (a.extractLsb' 4 4) ++ hexText (a.extractLsb' 0 4)

/-- The line of an instruction. -/
def Instr.text : Instr → String
  | .clearScreen => "ClearScreen"
  | .ret => "Return"
  | .scrollDown n => "ScrollDown " ++ Nat.repr n.toNat
  | .scrollRight => "ScrollRight"
  | .scrollLeft => "ScrollLeft"
  | .exit => "Exit"
  | .lores => "Lores"
  | .hires => "Hires"
  | .jump nnn => "Jump " ++ addressText nnn
  | .call nnn => "Call " ++ addressText nnn
  | .skipEqImm x nn => "SkipEqImm " ++ regText x ++ ", " ++ byteText nn
  | .skipNeImm x nn => "SkipNeImm " ++ regText x ++ ", " ++ byteText nn
  | .skipEqReg x y => "SkipEqReg " ++ regText x ++ ", " ++ regText y
  | .setImm x nn => "SetImm " ++ regText x ++ ", " ++ byteText nn
  | .addImm x nn => "AddImm " ++ regText x ++ ", " ++ byteText nn
  | .set x y => "Set " ++ regText x ++ ", " ++ regText y
  | .or x y => "Or " ++ regText x ++ ", " ++ regText y
  | .and x y => "And " ++ regText x ++ ", " ++ regText y
  | .xor x y => "Xor " ++ regText x ++ ", " ++ regText y
  | .add x y => "Add " ++ regText x ++ ", " ++ regText y
  | .sub x y => "Sub " ++ regText x ++ ", " ++ regText y
  | .rightShift x y => "RightShift " ++ regText x ++ ", " ++ regText y
  | .subReverse x y => "SubReverse " ++ regText x ++ ", " ++ regText y
  | .leftShift x y => "LeftShift " ++ regText x ++ ", " ++ regText y
  | .skipNeReg x y => "SkipNeReg " ++ regText x ++ ", " ++ regText y
  | .setIndex nnn => "SetIndex " ++ addressText nnn
  | .jumpOffset nnn => "JumpOffset " ++ addressText nnn
  | .random x nn => "Random " ++ regText x ++ ", " ++ byteText nn
  | .draw x y n => "Draw " ++ regText x ++ ", " ++ regText y ++ ", " ++ Nat.repr n.toNat
  | .skipIfKey x => "SkipIfKey " ++ regText x
  | .skipIfNotKey x => "SkipIfNotKey " ++ regText x
  | .getDelay x => "GetDelay " ++ regText x
  | .getKey x => "GetKey " ++ regText x
  | .setDelay x => "SetDelay " ++ regText x
  | .setSound x => "SetSound " ++ regText x
  | .addIndex x => "AddIndex " ++ regText x
  | .setIndexFont x => "SetIndexFont " ++ regText x
  | .setIndexBigFont x => "SetIndexBigFont " ++ regText x
  | .decimalConversion x => "DecimalConversion " ++ regText x
  | .storeMemory x => "StoreMemory " ++ regText x
  | .loadMemory x => "LoadMemory " ++ regText x
  | .saveFlags x => "SaveFlags " ++ regText x
  | .loadFlags x => "LoadFlags " ++ regText x

end Sys2Proof
end

