-- ==== Sys2Proof/Tests/Slice0.lean ====
section
/-! SUPPORT. The model's own tests. Expected results are those of spec/95_test_vectors.md (the vector's number stands in the
name or the docstring) or of the rules a docstring cites. The theorems named test_hyp_ show, for each statement that has
hypotheses, a state and operands that meet them. -/

namespace Sys2Proof.Tests

-- The kernel decisions below wait for one another, so they are elaborated one by one.
set_option Elab.async false

open Sys2Proof.Machine

/-! ### Helpers -/

/-- An observation of the next state of an outcome. -/
def after {α : Type} (o : Result) (f : State → α) : Option α :=
  match o with
  | .next t => some (f t)
  | .fault _ => none
  | .refused _ => none

/-- A fresh CHIP8 machine with some registers set. -/
def chip8 (regs : List (Reg × Byte)) : State :=
  regs.foldl (fun s p => s.setReg p.1 p.2) (State.initial (Config.standard .chip8))

/-- A fresh SCHIP machine, in lo-res, with some registers set. -/
def schip (regs : List (Reg × Byte)) : State :=
  regs.foldl (fun s p => s.setReg p.1 p.2) (State.initial (Config.standard .schip))

/-- `I` at an address, and bytes there. -/
def atIndex (s : State) (a : Word) (bytes : List Byte) : State := { s.writeBytes a.toNat bytes with index := a }

/-- One pixel set, the others clear. -/
def onePixel (s : State) (x y : Nat) : State := { s with fb := Framebuffer.toggle Framebuffer.blank x y }

/-- A key vector with one key set. -/
def oneKey (k : Fin 16) : KeyVector := (Vector.replicate 16 false).set k true

/-- A tick call without keys, that may run `k` steps. -/
def quietTick (k : Nat) : TickRequest := ⟨Vector.replicate 16 false, Vector.replicate 16 false, k⟩

/-- `pc` while an instruction at `0x200` executes. -/
def running (s : State) : State := { s with pc := 0x202 }

/-! ### Well-formedness: each check refuses an ill-formed term -/

theorem test_wf_scrollDown : Instr.validFor .chip8 (.scrollDown 1) = false := by decide +kernel
theorem test_wf_scrollRight : Instr.validFor .chip8 .scrollRight = false := by decide +kernel
theorem test_wf_scrollLeft : Instr.validFor .chip8 .scrollLeft = false := by decide +kernel
theorem test_wf_exit : Instr.validFor .chip8 .exit = false := by decide +kernel
theorem test_wf_lores : Instr.validFor .chip8 .lores = false := by decide +kernel
theorem test_wf_hires : Instr.validFor .chip8 .hires = false := by decide +kernel
theorem test_wf_setIndexBigFont : Instr.validFor .chip8 (.setIndexBigFont 3) = false := by decide +kernel
theorem test_wf_saveFlags : Instr.validFor .chip8 (.saveFlags 3) = false := by decide +kernel
theorem test_wf_loadFlags : Instr.validFor .chip8 (.loadFlags 3) = false := by decide +kernel
theorem test_wf_accepts : Instr.validFor .chip8 (.draw 1 2 0) = true ∧ Instr.validFor .schip .exit = true := by
  decide +kernel

theorem test_wf_font_past_reserved_area :
    Config.fontsPlaced { Config.standard .chip8 with fontBase := 0x1B1 } = false ∧
    Config.fontsPlaced { Config.standard .chip8 with fontBase := 0x1B0 } = true := by decide +kernel
theorem test_wf_fonts_overlap : Config.fontsPlaced { Config.standard .schip with fontBase := 0x0A0 } = false := by
  decide +kernel
theorem test_wf_big_font_past_reserved_area :
    Config.fontsPlaced { Config.standard .schip with bigFontBase := 0x161 } = false := by decide +kernel
theorem test_wf_speed : Config.speedPositive { Config.standard .chip8 with speed := 0 } = false := by decide +kernel
theorem test_wf_defaults : (Config.standard .chip8).wellFormed = true ∧ (Config.standard .schip).wellFormed = true := by
  decide +kernel
theorem test_wf_image : imageFits (List.replicate 3585 0) = false ∧ imageFits (List.replicate 3584 0) = true := by
  decide +kernel

/-! ### Decoding -/

/-- The words of 41_control_flow.md (R53), written bit by bit. -/
theorem test_decode_control_flow :
    decode 0b0000000011101110#16 = .ok .ret ∧
    decode 0b0000000011111101#16 = .ok .exit ∧
    decode 0b0001001101111001#16 = .ok (.jump 0x379#12) ∧
    decode 0b0010001101111001#16 = .ok (.call 0x379#12) ∧
    decode 0b0011100110110001#16 = .ok (.skipEqImm 9 0xB1#8) ∧
    decode 0b0100100110110001#16 = .ok (.skipNeImm 9 0xB1#8) ∧
    decode 0b0101100101000000#16 = .ok (.skipEqReg 9 4) ∧
    decode 0b1001100101000000#16 = .ok (.skipNeReg 9 4) ∧
    decode 0b1011001101111001#16 = .ok (.jumpOffset 0x379#12) := by
  decide +kernel

/-- The words of 42_alu.md (R53), written bit by bit. -/
theorem test_decode_alu :
    decode 0b0110100110110001#16 = .ok (.setImm 9 0xB1#8) ∧
    decode 0b0111100110110001#16 = .ok (.addImm 9 0xB1#8) ∧
    decode 0b1000100101000000#16 = .ok (.set 9 4) ∧
    decode 0b1000100101000001#16 = .ok (.or 9 4) ∧
    decode 0b1000100101000010#16 = .ok (.and 9 4) ∧
    decode 0b1000100101000011#16 = .ok (.xor 9 4) ∧
    decode 0b1000100101000100#16 = .ok (.add 9 4) ∧
    decode 0b1000100101000101#16 = .ok (.sub 9 4) ∧
    decode 0b1000100101000110#16 = .ok (.rightShift 9 4) ∧
    decode 0b1000100101000111#16 = .ok (.subReverse 9 4) ∧
    decode 0b1000100101001110#16 = .ok (.leftShift 9 4) ∧
    decode 0b1100100110110001#16 = .ok (.random 9 0xB1#8) := by
  decide +kernel

/-- The words of 43_index_memory.md (R53), written bit by bit. -/
theorem test_decode_index_memory :
    decode 0b1010001101111001#16 = .ok (.setIndex 0x379#12) ∧
    decode 0b1111100100011110#16 = .ok (.addIndex 9) ∧
    decode 0b1111100100101001#16 = .ok (.setIndexFont 9) ∧
    decode 0b1111100100110000#16 = .ok (.setIndexBigFont 9) ∧
    decode 0b1111100100110011#16 = .ok (.decimalConversion 9) ∧
    decode 0b1111100101010101#16 = .ok (.storeMemory 9) ∧
    decode 0b1111100101100101#16 = .ok (.loadMemory 9) ∧
    decode 0b1111100101110101#16 = .ok (.saveFlags 9) ∧
    decode 0b1111100110000101#16 = .ok (.loadFlags 9) := by
  decide +kernel

/-- The words of 44_timers_keys.md (R53), written bit by bit. -/
theorem test_decode_timers_keys :
    decode 0b1110100110011110#16 = .ok (.skipIfKey 9) ∧
    decode 0b1110100110100001#16 = .ok (.skipIfNotKey 9) ∧
    decode 0b1111100100000111#16 = .ok (.getDelay 9) ∧
    decode 0b1111100100001010#16 = .ok (.getKey 9) ∧
    decode 0b1111100100010101#16 = .ok (.setDelay 9) ∧
    decode 0b1111100100011000#16 = .ok (.setSound 9) := by
  decide +kernel

/-- The words of 45_display.md (R53), written bit by bit. -/
theorem test_decode_display :
    decode 0b0000000011100000#16 = .ok .clearScreen ∧
    decode 0b0000000011000110#16 = .ok (.scrollDown 0x6#4) ∧
    decode 0b0000000011111011#16 = .ok .scrollRight ∧
    decode 0b0000000011111100#16 = .ok .scrollLeft ∧
    decode 0b0000000011111110#16 = .ok .lores ∧
    decode 0b0000000011111111#16 = .ok .hires ∧
    decode 0b1101100101000110#16 = .ok (.draw 9 4 0x6#4) := by
  decide +kernel

/-- Vectors E4 to E9: words that match no row. -/
theorem test_decode_unknown :
    decode 0x0123#16 = .error (.unknownOpcode 0x0123#16) ∧
    decode 0x00E1#16 = .error (.unknownOpcode 0x00E1#16) ∧
    decode 0x5121#16 = .error (.unknownOpcode 0x5121#16) ∧
    decode 0x912F#16 = .error (.unknownOpcode 0x912F#16) ∧
    decode 0x8008#16 = .error (.unknownOpcode 0x8008#16) ∧
    decode 0x800D#16 = .error (.unknownOpcode 0x800D#16) ∧
    decode 0x800F#16 = .error (.unknownOpcode 0x800F#16) ∧
    decode 0xE09F#16 = .error (.unknownOpcode 0xE09F#16) ∧
    decode 0xF000#16 = .error (.unknownOpcode 0xF000#16) ∧
    decode 0xFFFF#16 = .error (.unknownOpcode 0xFFFF#16) := by
  decide +kernel

/-- The word as the opcode table numbers it, laid out high byte first (R41). -/
theorem test_decode_table_word :
    decodeTableWord 16 0x8124 = some (.add 1 2) ∧ decodeTableWord 16 0x5121 = none ∧
    decodeBytes [0x81#8, 0x24#8, 0xFF#8] = .ok (.add 1 2, [0xFF#8]) ∧ decodeBytes [0x81#8] = .error .truncated := by
  decide +kernel

/-- Lines of the programs of 95_test_vectors.md (P2, P3, P4) in the syntax of R58. -/
theorem test_text :
    Instr.text (.skipEqImm 1 0x00) = "SkipEqImm V1, 0x00" ∧ Instr.text (.jump 0x20E) = "Jump 0x20E" ∧
    Instr.text (.draw 0 0 5) = "Draw V0, V0, 5" ∧ Instr.text .ret = "Return" := by
  decide +kernel

/-! ### Control flow (41_control_flow.md) -/

theorem test_jump_F1 : after (exec (.jump 0x234#12) (chip8 [])) (fun t => t.pc) = some 0x234 := by decide +kernel
theorem test_call_F6 :
    after (exec (.call 0x300#12) { running (chip8 []) with stack := List.replicate 15 0x208 })
      (fun t => (t.pc, t.stack.head?, t.stack.length)) = some (0x300, some 0x202, 16) := by decide +kernel
theorem test_call_F5 :
    after (exec (.call 0x300#12) { running (chip8 []) with stack := List.replicate 16 0x208 })
      (fun t => (t.pc, t.stack.length, t.halted, t.lastError)) =
        some (0x202, 16, true, some ⟨.stackOverflow, some 0x2300, 0x200⟩) := by decide +kernel
theorem test_return_F3 :
    after (exec .ret { chip8 [] with stack := [0x202, 0x20A], pc := 0x302 }) (fun t => (t.pc, t.stack)) =
      some (0x202, [0x20A]) := by decide +kernel
theorem test_return_F4 :
    after (exec .ret (running (chip8 []))) (fun t => (t.pc, t.halted, t.lastError)) =
      some (0x202, true, some ⟨.stackUnderflow, some 0x00EE, 0x200⟩) := by decide +kernel
theorem test_jumpOffset_F7 : after (exec (.jumpOffset 0x300#12) (chip8 [(0, 0x10)])) (fun t => t.pc) = some 0x310 := by
  decide +kernel
theorem test_jumpOffset_F8 : after (exec (.jumpOffset 0xFFF#12) (chip8 [(0, 0xFF)])) (fun t => t.pc) = some 0x10FE := by
  decide +kernel
theorem test_skipEqImm_F9 :
    after (exec (.skipEqImm 1 0x05) (running (chip8 [(1, 0x05)]))) (fun t => t.pc) = some 0x204 ∧
    after (exec (.skipEqImm 1 0x06) (running (chip8 [(1, 0x05)]))) (fun t => t.pc) = some 0x202 := by decide +kernel
theorem test_skipNeImm_F10 :
    after (exec (.skipNeImm 1 0x05) (running (chip8 [(1, 0x05)]))) (fun t => t.pc) = some 0x202 ∧
    after (exec (.skipNeImm 1 0x06) (running (chip8 [(1, 0x05)]))) (fun t => t.pc) = some 0x204 := by decide +kernel
theorem test_skipEqReg_F11 :
    after (exec (.skipEqReg 1 2) (running (chip8 [(1, 0x33), (2, 0x33)]))) (fun t => t.pc) = some 0x204 ∧
    after (exec (.skipEqReg 1 2) (running (chip8 [(1, 0x33)]))) (fun t => t.pc) = some 0x202 := by decide +kernel
theorem test_skipNeReg_F11 :
    after (exec (.skipNeReg 1 2) (running (chip8 [(1, 0x33), (2, 0x33)]))) (fun t => t.pc) = some 0x202 ∧
    after (exec (.skipNeReg 1 2) (running (chip8 [(1, 0x33)]))) (fun t => t.pc) = some 0x204 := by decide +kernel
theorem test_exit_F14 : after (exec .exit (schip [])) (fun t => (t.running, t.lastError)) = some (false, none) := by
  decide +kernel
theorem test_exit_F15 :
    after (exec .exit (running (chip8 []))) (fun t => (t.running, t.pc, t.lastError)) =
      some (true, 0x202, some ⟨.variantMismatch, some 0x00FD, 0x200⟩) := by decide +kernel

/-! ### Register arithmetic and logic (42_alu.md) -/

theorem test_setImm_A1 : after (exec (.setImm 0xA 0x42) (chip8 [])) (fun t => t.reg 0xA) = some 0x42 := by
  decide +kernel
theorem test_addImm_A2 :
    after (exec (.addImm 0xA 0xFF) (chip8 [(0xA, 0x02), (0xF, 0x77)])) (fun t => (t.reg 0xA, t.reg 0xF)) =
      some (0x01, 0x77) := by decide +kernel
theorem test_addImm_A3 : after (exec (.addImm 0xF 0x01) (chip8 [(0xF, 0x01)])) (fun t => t.reg 0xF) = some 0x02 := by
  decide +kernel
theorem test_set_A4 : after (exec (.set 1 2) (chip8 [(2, 0x9A)])) (fun t => t.reg 1) = some 0x9A := by decide +kernel
theorem test_or_A5 :
    after (exec (.or 1 2) (chip8 [(1, 0xF0), (2, 0x3C), (0xF, 0x55)])) (fun t => (t.reg 1, t.reg 0xF)) =
      some (0xFC, 0x55) := by decide +kernel
theorem test_and_A5 :
    after (exec (.and 1 2) (chip8 [(1, 0xF0), (2, 0x3C), (0xF, 0x55)])) (fun t => (t.reg 1, t.reg 0xF)) =
      some (0x30, 0x55) := by decide +kernel
theorem test_xor_A5 :
    after (exec (.xor 1 2) (chip8 [(1, 0xF0), (2, 0x3C), (0xF, 0x55)])) (fun t => (t.reg 1, t.reg 0xF)) =
      some (0xCC, 0x55) := by decide +kernel
theorem test_add_S3 :
    after (exec (.add 0 1) (chip8 [(0, 0xFE), (1, 0x05)])) (fun t => (t.reg 0, t.reg 0xF)) = some (0x03, 1) := by
  decide +kernel
theorem test_add_A9 :
    after (exec (.add 0xF 1) (chip8 [(0xF, 0x10), (1, 0x05)])) (fun t => t.reg 0xF) = some 0 := by decide +kernel
theorem test_sub_S4 :
    after (exec (.sub 0 1) (chip8 [(0, 0x05), (1, 0x0A)])) (fun t => (t.reg 0, t.reg 0xF)) = some (0xFB, 0) := by
  decide +kernel
theorem test_sub_A10 :
    after (exec (.sub 0 1) (chip8 [(0, 0x0A), (1, 0x0A)])) (fun t => (t.reg 0, t.reg 0xF)) = some (0x00, 1) := by
  decide +kernel
theorem test_subReverse_A12 :
    after (exec (.subReverse 0 1) (chip8 [(0, 0x05), (1, 0x0A)])) (fun t => (t.reg 0, t.reg 0xF)) = some (0x05, 1) := by
  decide +kernel
theorem test_subReverse_A13 :
    after (exec (.subReverse 0 1) (chip8 [(0, 0x0A), (1, 0x05)])) (fun t => (t.reg 0, t.reg 0xF)) = some (0xFB, 0) := by
  decide +kernel
theorem test_rightShift_A14 :
    after (exec (.rightShift 0 1) (chip8 [(0, 0xAA), (1, 0x05)])) (fun t => (t.reg 0, t.reg 0xF)) = some (0x02, 1) := by
  decide +kernel
theorem test_rightShift_A15 :
    after (exec (.rightShift 0 1)
      { schip [(0, 0xAA), (1, 0x05)] with cfg := { Config.standard .schip with shiftInPlace := true } })
      (fun t => (t.reg 0, t.reg 0xF)) = some (0x55, 0) := by decide +kernel
theorem test_leftShift_A17 :
    after (exec (.leftShift 0 1) (chip8 [(0, 0x01), (1, 0x81)])) (fun t => (t.reg 0, t.reg 0xF)) = some (0x02, 1) := by
  decide +kernel
theorem test_leftShift_A19 : after (exec (.leftShift 0xF 0) (chip8 [(0, 0x81)])) (fun t => t.reg 0xF) = some 1 := by
  decide +kernel
/-- The draw is the free value of the first `Random`, whatever it is (A21). -/
theorem test_random_A21 :
    after (exec (.random 0 0x0F) (chip8 [])) (fun t => (t.reg 0, t.draws)) = some (Config.randomDraw 0 &&& 0x0F, 1) := rfl

/-! ### Index and memory (43_index_memory.md) -/

theorem test_setIndex_M1 : after (exec (.setIndex 0x123#12) (chip8 [])) (fun t => t.index) = some 0x123 := by
  decide +kernel
theorem test_addIndex_M2 :
    after (exec (.addIndex 0) { chip8 [(0, 0x01)] with index := 0x0FFF }) (fun t => (t.index, t.reg 0xF)) =
      some (0x1000, 0) := by decide +kernel
theorem test_addIndex_M3 :
    after (exec (.addIndex 0) { chip8 [(0, 0x02)] with index := 0xFFFF }) (fun t => t.index) = some 0x0001 := by
  decide +kernel
theorem test_setIndexFont_M5 : after (exec (.setIndexFont 0) (chip8 [(0, 0x1A)])) (fun t => t.index) = some 0x082 := by
  decide +kernel
theorem test_setIndexBigFont_M6 :
    after (exec (.setIndexBigFont 0) (schip [(0, 0x03)])) (fun t => t.index) = some 0x0BE := by decide +kernel
theorem test_setIndexBigFont_M7 :
    after (exec (.setIndexBigFont 0) (running (chip8 [(0, 0x03)]))) (fun t => (t.index, t.lastError)) =
      some (0, some ⟨.variantMismatch, some 0xF030, 0x200⟩) := by decide +kernel
theorem test_decimalConversion_M8 :
    after (exec (.decimalConversion 0) (atIndex (chip8 [(0, 0xFF)]) 0x300 []))
      (fun t => (t.readByte 0x300, t.readByte 0x301, t.readByte 0x302, t.index)) = some (2, 5, 5, 0x300) := by
  decide +kernel
theorem test_decimalConversion_M11 :
    after (exec (.decimalConversion 0) (atIndex (chip8 [(0, 0xFF)]) 0xFFE []))
      (fun t => (t.readByte 0xFFE, t.halted, t.lastError.map (·.kind))) =
        some (0, true, some (.outOfMemory .data)) := by decide +kernel
theorem test_storeMemory_M12 :
    after (exec (.storeMemory 2) (atIndex (chip8 [(0, 0x11), (1, 0x22), (2, 0x33), (3, 0x44)]) 0x400 []))
      (fun t => (t.readByte 0x400, t.readByte 0x402, t.readByte 0x403, t.index)) = some (0x11, 0x33, 0, 0x400) := by
  decide +kernel
theorem test_storeMemory_M14 :
    after (exec (.storeMemory 0xF) (atIndex (chip8 [(0, 0x11)]) 0xFF1 []))
      (fun t => (t.readByte 0xFF1, t.halted, t.lastError.map (·.kind))) =
        some (0, true, some (.outOfMemory .data)) := by decide +kernel
theorem test_loadMemory_M15 :
    after (exec (.loadMemory 0) (atIndex (chip8 []) 0xFFF [0x9C])) (fun t => (t.reg 0, t.index)) =
      some (0x9C, 0xFFF) := by decide +kernel
theorem test_loadMemory_M16 :
    after (exec (.loadMemory 0xF) (atIndex (chip8 []) 0x300 [0, 1, 2, 3, 4, 5, 6, 7, 8, 9, 10, 11, 12, 13, 14, 15]))
      (fun t => (t.reg 0, t.reg 9, t.reg 0xF)) = some (0, 9, 0x0F) := by decide +kernel
theorem test_saveFlags_M17 : after (exec (.saveFlags 3) (schip [(0, 0x42)])) id = some (schip [(0, 0x42)]) := rfl
theorem test_loadFlags_M17 : after (exec (.loadFlags 3) (schip [(0, 0x42)])) id = some (schip [(0, 0x42)]) := rfl
/-- The variant gate comes before any memory check. -/
theorem test_saveFlags_E16 :
    after (exec (.saveFlags 0) (atIndex (chip8 []) 0xFFF [])) (fun t => (t.halted, t.lastError.map (·.kind))) =
      some (false, some .variantMismatch) := by decide +kernel

/-! ### Timers and keys (44_timers_keys.md) -/

theorem test_getDelay_K1 : after (exec (.getDelay 3) { chip8 [] with dt := 0x3C }) (fun t => t.reg 3) = some 0x3C := by
  decide +kernel
theorem test_setDelay_K2 : after (exec (.setDelay 0) (chip8 [(0, 0x02)])) (fun t => (t.dt, t.st)) = some (2, 0) := by
  decide +kernel
theorem test_setSound_K3 :
    after (exec (.setSound 0) (chip8 [(0, 0x05)])) (fun t => (t.st, t.dt, t.soundActive)) = some (5, 0, true) := by
  decide +kernel
theorem test_skipIfKey_K4 :
    after (exec (.skipIfKey 0) { running (chip8 [(0, 5)]) with keysDown := oneKey 5 }) (fun t => t.pc) = some 0x204 := by
  decide +kernel
theorem test_skipIfKey_K6 :
    after (exec (.skipIfKey 0) (running (chip8 [(0, 0x10)]))) (fun t => (t.pc, t.halted, t.lastError)) =
      some (0x202, true, some ⟨.keyOutOfRange, some 0xE09E, 0x200⟩) := by decide +kernel
theorem test_skipIfNotKey_K4 :
    after (exec (.skipIfNotKey 0) { running (chip8 [(0, 5)]) with keysDown := oneKey 5 }) (fun t => t.pc) = some 0x202 := by
  decide +kernel
/-- `keys_released` is not read. -/
theorem test_skipIfNotKey_K5 :
    after (exec (.skipIfNotKey 0) { running (chip8 [(0, 5)]) with keysReleased := oneKey 5 }) (fun t => t.pc) =
      some 0x204 := by decide +kernel
theorem test_getKey_K7 :
    after (exec (.getKey 3) (running (chip8 [(3, 0x77)]))) (fun t => (t.pc, t.reg 3)) = some (0x200, 0x77) := by
  decide +kernel
theorem test_getKey_K8 :
    after (exec (.getKey 3) { running (chip8 []) with keysReleased := (oneKey 5).set 9 true }) (fun t => (t.pc, t.reg 3)) =
      some (0x202, 0x05) := by decide +kernel

/-! ### Display (45_display.md) -/

theorem test_clearScreen_S2 :
    after (exec .clearScreen { chip8 [(0xF, 9)] with fb := Vector.replicate 64 (BitVec.allOnes 128) })
      (fun t => (t.pixel 0 0, t.pixel 63 31, t.pixel 127 63, t.reg 0xF)) = some (false, false, false, 9) := by
  decide +kernel
/-- D1: the sprite is clipped at the right and lower edges and nothing wraps. -/
theorem test_draw_D1 :
    after (exec (.draw 0 1 4) (atIndex (chip8 [(0, 60), (1, 30)]) 0x300 [0xFF, 0xFF, 0xFF, 0xFF]))
      (fun t => (t.fb[30], t.fb[31], t.fb[0], t.fb[32], t.reg 0xF)) =
        some (0xF000000000000000#128, 0xF000000000000000#128, 0, 0, 0) := by decide +kernel
/-- D11: in lo-res a sprite pixel toggles a block, and a collision with one of its pixels sets the flag. -/
theorem test_draw_D11 :
    after (exec (.draw 0 1 1) (atIndex (onePixel (schip []) 0 0) 0x300 [0x80]))
      (fun t => (t.fb[0], t.fb[1], t.fb[2], t.reg 0xF)) = some (0x2#128, 0x3#128, 0, 1) := by decide +kernel
theorem test_hires_D21 : after (exec .hires { schip [] with hires := true }) (fun t => t.hires) = some true := by
  decide +kernel
theorem test_lores : after (exec .lores (onePixel { schip [] with hires := true } 3 3)) (fun t => (t.hires, t.pixel 3 3)) =
    some (false, true) := by decide +kernel
theorem test_scrollDown_S8 :
    after (exec (.scrollDown 1) { onePixel (schip []) 5 0 with hires := true })
      (fun t => (t.pixel 5 0, t.pixel 5 1, t.pixel 5 2)) = some (false, true, false) := by decide +kernel
theorem test_scrollDown_D18 :
    after (exec (.scrollDown 0xF) (onePixel (schip []) 0 33)) (fun t => (t.pixel 0 33, t.pixel 0 63)) =
      some (false, true) := by decide +kernel
theorem test_scrollRight_D14 :
    after (exec .scrollRight { onePixel (schip []) 0 0 with hires := true }) (fun t => t.fb[0]) = some 0x10#128 := by
  decide +kernel
theorem test_scrollRight_D16 :
    after (exec .scrollRight { onePixel (schip []) 125 3 with hires := true }) (fun t => t.fb) =
      some Framebuffer.blank := by decide +kernel
theorem test_scrollLeft_D15 :
    after (exec .scrollLeft (onePixel (schip []) 8 5)) (fun t => (t.pixel 8 5, t.pixel 0 5)) = some (false, true) := by
  decide +kernel
theorem test_scrollLeft_D19 :
    after (exec .scrollLeft (onePixel (chip8 []) 8 5)) (fun t => (t.pixel 8 5, t.lastError.map (·.kind))) =
      some (true, some .variantMismatch) := by decide +kernel

/-! ### The step and the tick (40_execution_cycle.md) -/

/-- Y3: a fetch that crosses the end of memory leaves `pc` where it is. -/
theorem test_step_Y3 :
    after (step { chip8 [] with pc := 0xFFF }) (fun t => (t.pc, t.halted, t.lastError)) =
      some (0xFFF, true, some ⟨.outOfMemory .fetch, none, 0xFFF⟩) := by decide +kernel
/-- Y2 and Y5: the last word of memory, and a word at an odd address. -/
theorem test_step_Y2_Y5 :
    after (step ({ chip8 [] with pc := 0xFFE }.withFetchWord 16 0x6007)) (fun t => (t.reg 0, t.pc)) =
      some (0x07, 0x1000) ∧
    after (step ({ chip8 [] with pc := 0x201 }.withFetchWord 16 0x6123)) (fun t => (t.reg 1, t.pc)) =
      some (0x23, 0x203) := by decide +kernel
theorem test_step_E14 :
    after (step ((chip8 []).withFetchWord 16 0x00FF)) (fun t => (t.pc, t.halted, t.result)) =
      some (0x202, false, some (.error ⟨.variantMismatch, some 0x00FF, 0x200⟩)) := by decide +kernel
theorem test_step_E15 :
    after (step ((chip8 []).withFetchWord 16 0x0123)) (fun t => (t.pc, t.stepsLeft, t.result)) =
      some (0x202, 0, some (.error ⟨.unknownOpcode, some 0x0123, 0x200⟩)) := by decide +kernel
/-- T1 and T2: the timers are decremented before the first step. -/
theorem test_step_T1 :
    after (step ({ chip8 [] with dt := 5, st := 1 }.withFetchWord 16 0xF307)) (fun t => (t.reg 3, t.dt, t.st)) =
      some (4, 4, 0) := by decide +kernel
/-- The second step of a tick leaves the timers alone (R63). -/
theorem test_step_inside_a_tick :
    after (step ({ chip8 [] with dt := 5, stepsLeft := 1 }.withFetchWord 16 0xF307))
      (fun t => (t.reg 3, t.dt, t.stepsLeft, t.result)) = some (5, 5, 0, some .ok) := by decide +kernel
theorem test_step_T3 :
    after (step { chip8 [] with halted := true, dt := 5 }) (fun t => (t.dt, t.pc, t.result)) =
      some (5, 0x200, some .halted) := by decide +kernel
theorem test_step_T4 :
    after (step { schip [] with running := false, dt := 5 }) (fun t => (t.dt, t.pc, t.result)) =
      some (5, 0x200, some .ok) := by decide +kernel
/-- R67 and T2: the first of two steps of a tick shows the host nothing, the last one shows it the outputs. -/
theorem test_step_host_view :
    after (step { (chip8 []).withFetchWord 16 0x6005 with st := 1, requests := [quietTick 2] }) (fun t => t.hostView) =
      some none ∧
    after (step { (chip8 []).withFetchWord 16 0x6005 with st := 1, requests := [quietTick 1] })
      (fun t => t.hostView.map fun view => (view.soundActive, view.running, view.result)) =
        some (some (false, true, some .ok)) := by decide +kernel
/-- The throttled bound for `SPEED = 120` is 2 (T6). -/
theorem test_step_cap_T6 :
    tickSteps { Config.standard .chip8 with speed := 120, throttled := true } 9 = 2 ∧
    tickSteps { Config.standard .chip8 with speed := 121, throttled := true } 9 = 3 ∧
    tickSteps (Config.standard .chip8) 0 = 1 := by decide +kernel

/-! ### Witnesses for the hypotheses of the statements -/

/-- A machine about to fetch the word `w`, with one tick call of `k` steps waiting. -/
def about (s : State) (w : Nat) (k : Nat) : State := { s.withFetchWord 16 w with requests := [quietTick k] }

theorem canRun_reset : CanRun State.reset := ⟨by decide +kernel, by decide +kernel, by decide +kernel⟩

theorem test_hyp_EncodeOfDecodeIsTheWord : decode 0x8124#16 = .ok (.add 1 2) := by decide +kernel

/-- A first step, a last step, a step in the middle, an `Exit`, an error. -/
theorem test_hyp_StepRunsTheDecodedInstruction :
    (∀ w k, CanRun (about (schip []) w k)) ∧ (about (schip []) 0x6005 3).pc.toNat + 1 < 4096 ∧
    decode ((about (schip []) 0x6005 3).fetchWord 0x200) = .ok (.setImm 0 5) ∧
    decode ((about (schip []) 0x00FD 3).fetchWord 0x200) = .ok .exit ∧
    decode ((about (schip []) 0x00EE 3).fetchWord 0x200) = .ok .ret ∧
    after (exec (.setImm 0 5) { openTick (about (schip []) 0x6005 3) with pc := 0x202 }) (fun u => u.stepsLeft) = some 3 ∧
    after (exec (.setImm 0 5) { openTick (about (schip []) 0x6005 1) with pc := 0x202 }) (fun u => u.stepsLeft) = some 1 ∧
    after (exec .exit { openTick (about (schip []) 0x00FD 3) with pc := 0x202 }) (fun u => (u.stepsLeft, u.running)) =
      some (3, false) ∧
    after (exec .ret { openTick (about (schip []) 0x00EE 3) with pc := 0x202 }) (fun u => u.stepsLeft) = some 0 ∧
    { about (schip []) 0x6005 3 with stepsLeft := 2 }.stepsLeft ≠ 0 :=
  ⟨fun _ _ => ⟨rfl, fun _ => rfl, by show (0 : Rat) < 600; decide +kernel⟩, by decide +kernel, by decide +kernel,
    by decide +kernel, by decide +kernel,
    by decide +kernel, by decide +kernel, by decide +kernel, by decide +kernel, by decide +kernel⟩

theorem test_hyp_FetchPastMemoryHalts :
    CanRun { chip8 [] with pc := 0xFFF } ∧ 4096 ≤ ({ chip8 [] with pc := 0xFFF } : State).pc.toNat + 1 :=
  ⟨⟨by decide +kernel, by decide +kernel, by decide +kernel⟩, by decide +kernel⟩

theorem test_hyp_UnknownOpcodeIsRecoverable :
    CanRun (about (chip8 []) 0x0123 1) ∧ (about (chip8 []) 0x0123 1).pc.toNat + 1 < 4096 ∧
    decode ((about (chip8 []) 0x0123 1).fetchWord 0x200) = .error (.unknownOpcode 0x0123) :=
  ⟨⟨by decide +kernel, by decide +kernel, by decide +kernel⟩, by decide +kernel, by decide +kernel⟩

theorem test_hyp_HaltedTickChangesNothing : ({ chip8 [] with halted := true } : State).halted = true := by
  decide +kernel

theorem test_hyp_ExitedTickChangesNothing :
    ({ schip [] with running := false } : State).halted = false ∧
    ({ schip [] with running := false } : State).cfg.variant = .schip ∧
    ({ schip [] with running := false } : State).running = false := by decide +kernel

/-- Each of the three ways to answer, and the one way not to. -/
theorem test_hyp_StepAnswersUnlessSpeedIsNotPositive :
    0 < (chip8 []).cfg.speed ∧ ({ chip8 [] with halted := true } : State).halted = true ∧
    (({ schip [] with running := false } : State).cfg.variant = .schip ∧
      ({ schip [] with running := false } : State).running = false) ∧
    (∃ s : State, s.halted = false ∧ (s.cfg.variant = .schip → s.running = true) ∧ s.cfg.speed ≤ 0) :=
  ⟨by decide +kernel, by decide +kernel, by decide +kernel,
    ⟨{ chip8 [] with cfg := { Config.standard .chip8 with speed := 0 } }, by decide +kernel, by decide +kernel,
    by decide +kernel⟩⟩

/-- `SetDelay`, `SetSound`, and an instruction that is neither, each at the start of a tick and inside one. -/
theorem test_hyp_TimersMoveOnlyAtTickStart :
    CanRun (about (chip8 []) 0xF015 1) ∧
    decode ((about (chip8 []) 0xF015 1).fetchWord 0x200) = .ok (.setDelay 0) ∧
    decode ((about (chip8 []) 0xF018 1).fetchWord 0x200) = .ok (.setSound 0) ∧
    decode ((about (chip8 []) 0x6005 1).fetchWord 0x200) = .ok (.setImm 0 5) ∧
    (about (chip8 []) 0x6005 1).stepsLeft = 0 ∧ ({ about (chip8 []) 0x6005 1 with stepsLeft := 2 } : State).stepsLeft ≠ 0 :=
  ⟨⟨by decide +kernel, by decide +kernel, by decide +kernel⟩, by decide +kernel, by decide +kernel,
    by decide +kernel, by decide +kernel, by decide +kernel⟩

/-- The bound of a throttled tick, at its edge. -/
theorem test_hyp_TickStepCountIsWithinItsBounds :
    ∃ c : Config, 0 < c.speed ∧ c.throttled = true ∧ 1 ≤ 2 ∧ ((2 : Nat) : Int) ≤ ⌈c.speed / 60⌉ :=
  ⟨{ Config.standard .chip8 with speed := 120, throttled := true }, by decide +kernel, rfl, by decide +kernel, by
    show ((2 : Nat) : Int) ≤ ⌈(120 : Rat) / 60⌉
    norm_num⟩

theorem test_hyp_TickEndsWithinItsStepCount :
    CanRun (about (chip8 []) 0x6005 3) ∧ (about (chip8 []) 0x6005 3).stepsLeft = 0 :=
  ⟨⟨by decide +kernel, by decide +kernel, by decide +kernel⟩, by decide +kernel⟩

/-- A state inside a tick, and one between ticks from which a tick can run. -/
theorem test_hyp_HostSeesOnlyTickEnds :
    ({ chip8 [] with stepsLeft := 1 } : State).stepsLeft ≠ 0 ∧ CanRun (about (chip8 []) 0x6005 3) ∧
    (about (chip8 []) 0x6005 3).stepsLeft = 0 ∧ ∃ before, (about (chip8 []) 0x6005 3).hostView = some before :=
  ⟨by decide +kernel, ⟨by decide +kernel, by decide +kernel, by decide +kernel⟩, by decide +kernel,
    ⟨_, hostView_between (by decide +kernel)⟩⟩

theorem test_hyp_GetKeyWaitsThroughTheTick :
    CanRun (about (chip8 []) 0xF30A 3) ∧ (about (chip8 []) 0xF30A 3).stepsLeft = 0 ∧
    (about (chip8 []) 0xF30A 3).pc.toNat + 1 < 4096 ∧
    decode ((about (chip8 []) 0xF30A 3).fetchWord 0x200) = .ok (.getKey 3) ∧
    ∀ k : Fin 16, (about (chip8 []) 0xF30A 3).nextRequest.keysReleased[k] = false :=
  ⟨⟨by decide +kernel, by decide +kernel, by decide +kernel⟩, by decide +kernel, by decide +kernel,
    by decide +kernel, by decide +kernel⟩

/-- Both sources of a shift. -/
theorem test_hyp_ShiftsWriteResultThenBitShiftedOut :
    (∀ s : State, s = chip8 [(0, 1), (1, 2)] →
      (2 : Byte) = if s.cfg.variant = .schip ∧ s.cfg.shiftInPlace = true then s.reg 0 else s.reg 1) ∧
    ∀ s : State, s = { schip [(0, 1), (1, 2)] with cfg := { Config.standard .schip with shiftInPlace := true } } →
      (1 : Byte) = if s.cfg.variant = .schip ∧ s.cfg.shiftInPlace = true then s.reg 0 else s.reg 1 :=
  ⟨by rintro _ rfl; decide +kernel, by rintro _ rfl; decide +kernel⟩

theorem test_hyp_ReturnPopsOrUnderflows :
    ({ chip8 [] with stack := [0x202] } : State).stack = 0x202 :: [] ∧ (chip8 []).stack = [] := by decide +kernel

/-- A stack of `d` return addresses. -/
def deep (d : Nat) : State := { running (chip8 []) with stack := List.replicate d 0x202 }

/-- A stack with room for one more entry, and a full one. -/
theorem test_hyp_CallPushesOrOverflows :
    ((deep 15).stack.length ≤ (deep 15).cfg.stackDepth ∧ (deep 15).stack.length ≠ (deep 15).cfg.stackDepth) ∧
    (deep 16).stack.length ≤ (deep 16).cfg.stackDepth ∧ (deep 16).stack.length = (deep 16).cfg.stackDepth := by
  decide +kernel

theorem test_hyp_ReturnUndoesCall : (deep 15).stack.length < (deep 15).cfg.stackDepth := by decide +kernel

theorem test_hyp_ExitClearsRunningAndEndsTheTick :
    (about (schip []) 0x00FD 3).cfg.variant = .schip ∧ CanRun (about (schip []) 0x00FD 3) ∧
    (about (schip []) 0x00FD 3).pc.toNat + 1 < 4096 ∧ (about (schip []) 0x00FD 3).fetchWord 0x200 = 0x00FD :=
  ⟨by decide +kernel, ⟨by decide +kernel, by decide +kernel, by decide +kernel⟩, by decide +kernel, by decide +kernel⟩

theorem test_hyp_SetIndexFontPointsAtGlyph :
    (chip8 []).cfg.fontBase + 80 ≤ 65536 ∧ ({ Config.standard .chip8 with fontBase := 65456 } : Config).fontBase + 80 ≤ 65536 := by
  decide +kernel

theorem test_hyp_SetIndexBigFontPointsAtGlyph :
    (schip []).cfg.variant = .schip ∧ (schip []).cfg.bigFontBase + 160 ≤ 65536 := by decide +kernel

/-- The last place three bytes fit. -/
theorem test_hyp_DecimalConversionWritesDigits :
    Memory.wf (atIndex (chip8 []) 0xFFD []).cfg (atIndex (chip8 []) 0xFFD []).mem ∧
    (atIndex (chip8 []) 0xFFD []).index.toNat + 2 < 4096 := by decide +kernel

/-- The last place sixteen registers fit, over memory that lists a byte. -/
theorem test_hyp_StoreMemoryWritesRegisters :
    Memory.wf (atIndex (chip8 []) 0xFF0 [7]).cfg (atIndex (chip8 []) 0xFF0 [7]).mem ∧
    (atIndex (chip8 []) 0xFF0 [7]).index.toNat + (15 : Reg).val < 4096 := by decide +kernel

theorem test_hyp_LoadMemoryReadsRegisters : (atIndex (chip8 []) 0xFF0 []).index.toNat + (15 : Reg).val < 4096 := by
  decide +kernel

theorem test_hyp_LoadAfterStoreRestoresRegisters :
    Memory.wf (atIndex (chip8 []) 0x300 [7]).cfg (atIndex (chip8 []) 0x300 [7]).mem ∧
    (atIndex (chip8 []) 0x300 [7]).index.toNat + (15 : Reg).val < 4096 := by decide +kernel

/-- The first addresses past the last that fits, for each instruction; `Draw` with a row count and with the hi-res 16. -/
theorem test_hyp_DataAccessPastMemoryHalts :
    4096 ≤ (atIndex (chip8 []) 0xFFE []).index.toNat + 2 ∧
    4096 ≤ (atIndex (chip8 []) 0xFF1 []).index.toNat + (15 : Reg).val ∧
    (∀ s : State, s = atIndex (chip8 []) 0xFFE [] →
      3 = (if (3 : Nibble) ≠ 0 then (3 : Nibble).toNat else if s.cfg.variant = .schip ∧ s.hires = true then 32 else 0) ∧
        0 < 3 ∧ 4096 ≤ s.index.toNat + 3 - 1) ∧
    ∀ s : State, s = atIndex { schip [] with hires := true } 0xFE1 [] →
      32 = (if (0 : Nibble) ≠ 0 then (0 : Nibble).toNat else if s.cfg.variant = .schip ∧ s.hires = true then 32 else 0) ∧
        0 < 32 ∧ 4096 ≤ s.index.toNat + 32 - 1 :=
  ⟨by decide +kernel, by decide +kernel, by rintro _ rfl; decide +kernel, by rintro _ rfl; decide +kernel⟩

theorem test_hyp_FlagPlaceholdersDoNothing : (schip []).cfg.variant = .schip := by decide +kernel

theorem test_hyp_StoredWordIsFetched :
    Memory.wf (atIndex (chip8 []) 0x300 []).cfg (atIndex (chip8 []) 0x300 []).mem ∧
    (atIndex (chip8 []) 0x300 []).index.toNat + (15 : Reg).val < 4096 ∧ (15 : Reg).val = (14 : Reg).val + 1 ∧
    (15 : Reg) ≤ 15 := by decide +kernel

/-- The first and the last key, and the first value that is none. -/
theorem test_hyp_KeySkipsReadKeysDown :
    ((chip8 [(0, 0)]).reg 0).toNat = (0 : Fin 16).val ∧ ((chip8 [(0, 15)]).reg 0).toNat = (15 : Fin 16).val ∧
    15 < ((chip8 [(0, 16)]).reg 0).toNat := by decide +kernel

theorem test_hyp_GetKeyTakesLowestOrRewinds :
    ((oneKey 15)[(15 : Fin 16)] = true ∧ ∀ j : Fin 16, j < 15 → (oneKey 15)[j] = false) ∧
    ((oneKey 0)[(0 : Fin 16)] = true ∧ ∀ j : Fin 16, j < 0 → (oneKey 0)[j] = false) ∧
    ∀ k : Fin 16, (chip8 []).keysReleased[k] = false := by decide +kernel

/-- A sprite without rows, one that ends at the last byte, and a covered pixel that was set. -/
theorem test_hyp_DrawTogglesExactlyTheCoveredPixels :
    ((chip8 []).geometryOf 0 1 0).height * ((chip8 []).geometryOf 0 1 0).bytesPerRow = 0 ∧
    (atIndex (chip8 []) 0xFFF [0x80]).geometryOf 0 1 1 = ⟨64, 32, 1, 8, 1, 1, 0, 0⟩ ∧
    (atIndex (chip8 []) 0xFFF []).index.toNat +
      ((chip8 []).geometryOf 0 1 1).height * ((chip8 []).geometryOf 0 1 1).bytesPerRow - 1 < 4096 ∧
    SpriteCovers (atIndex (chip8 []) 0xFFF [0x80]) ((chip8 []).geometryOf 0 1 1) 0 0 ∧
    ¬SpriteCovers (atIndex (chip8 []) 0xFFF [0x80]) ((chip8 []).geometryOf 0 1 1) 64 0 :=
  ⟨by decide +kernel, by decide +kernel, by decide +kernel, ⟨by decide +kernel, by decide +kernel, 0, 0,
    by decide +kernel⟩, fun h => absurd h.1 (by decide +kernel)⟩

theorem test_hyp_DrawingTwiceRestoresTheFramebuffer :
    (0 : Reg) ≠ 15 ∧ (1 : Reg) ≠ 15 ∧ (atIndex (chip8 []) 0xFE0 []).index.toNat + 32 ≤ 4096 := by decide +kernel

theorem test_hyp_ModeInstructionsSetAndClearHires : (schip []).cfg.variant = .schip := by decide +kernel

/-- The edges of the grid, in both modes. -/
theorem test_hyp_ScrollLeftMovesEveryPixel :
    (schip []).cfg.variant = .schip ∧ (schip []).hires = false ∧ ({ schip [] with hires := true } : State).hires = true ∧
    127 < 128 ∧ 63 < 64 := by decide +kernel

theorem test_hyp_ScrollsDownAndRightMoveEveryPixel :
    ({ schip [] with hires := true } : State).cfg.variant = .schip ∧ 127 < 128 ∧ 63 < 64 := by decide +kernel

theorem test_hyp_VariantMismatchExactlyForSchipOnly :
    Instr.validFor (chip8 []).cfg.variant .exit = false ∧ Instr.validFor (schip []).cfg.variant .exit = true ∧
    Instr.validFor (chip8 []).cfg.variant .ret = true := by decide +kernel

/-- For each of the three clauses an instruction and the state it leaves. -/
theorem test_hyp_OnlyFlagWritersWriteVF :
    (∃ t, exec (.or 1 2) (chip8 []) = .next t) ∧ (Instr.or 1 2).writesFlag = false ∧ ¬(Instr.or 1 2).writesRegister 15 ∧
    (∃ t, exec (.add 15 2) (chip8 []) = .next t) ∧ (Instr.add 15 2).writesFlag = true ∧
    (0 : Reg) ≠ 15 ∧ ¬(Instr.add 15 2).writesRegister 0 :=
  ⟨⟨_, rfl⟩, by decide +kernel, show ¬(15 : Reg) = 1 by decide +kernel, ⟨_, rfl⟩, by decide +kernel,
    by decide +kernel,
    show ¬(0 : Reg) = 15 by decide +kernel⟩

theorem test_hyp_OnlyStoringInstructionsChangeMemory :
    (∃ t, exec (.loadMemory 3) (atIndex (chip8 []) 0x300 [1, 2, 3, 4]) = .next t) ∧ (Instr.loadMemory 3).stores = false :=
  ⟨⟨_, rfl⟩, by decide +kernel⟩

theorem test_hyp_StateIsChangedOnlyByItsInstructions : ∃ t, exec (.setIndex 0x123) (chip8 []) = .next t := ⟨_, rfl⟩

theorem test_hyp_PcAfterEveryInstruction : ∃ t, exec (.getKey 3) (running (chip8 [])) = .next t := ⟨_, rfl⟩

theorem test_hyp_KeysReachOnlyKeyInstructions :
    (∀ x, Instr.add 1 2 ≠ .skipIfKey x ∧ Instr.add 1 2 ≠ .skipIfNotKey x ∧ Instr.add 1 2 ≠ .getKey x) ∧
    ∃ t, exec (.add 1 2) (chip8 []) = .next t :=
  ⟨fun _ => ⟨by simp, by simp, by simp⟩, ⟨_, rfl⟩⟩

/-- A CHIP8 machine with a return address on its stack and a byte in memory, about to return. -/
def callee : State := { about (chip8 []) 0x00EE 2 with stack := [0x206] }

theorem test_hyp_StepKeepsTheInvariant : callee.Inv ∧ ∃ t, step callee = .next t := by
  refine ⟨⟨by decide +kernel, by decide +kernel, ?_, by decide +kernel, fun _ => ⟨rfl, rfl, fun x y _ => ?_⟩, ?_, ?_,
    by decide +kernel, by decide +kernel⟩, ?_⟩
  · intro a ha
    rcases List.mem_singleton.1 (show a ∈ [0x206] from ha) with rfl
    decide +kernel
  · show Framebuffer.pixel (Vector.replicate 64 0) x y = false
    rcases Nat.lt_or_ge y 64 with h | h
    · rw [pixel_of_lt _ _ h]; simp
    · exact pixel_of_ge _ _ h
  · exact ⟨fun h => absurd h (by decide +kernel), fun ⟨e, h, _⟩ => absurd (show none = some e from h) (by simp)⟩
  · exact fun e h => absurd (show none = some e from h) (by simp)
  · exact ⟨_, step_of_runs (by decide +kernel) (by decide +kernel) (by decide +kernel)⟩

/-- The longest image, and one byte more. -/
theorem test_hyp_ConstructionMeetsTheInvariant :
    (List.replicate 3584 (0xFF : Byte)).length ≤ 3584 ∧ 3584 < (List.replicate 3585 (0xFF : Byte)).length := by
  simp only [List.length_replicate]
  omega

theorem test_hyp_ConstructionValues :
    ([0x60, 0x05] : List Byte).length ≤ 3584 ∧ 1 < ([0x60, 0x05] : List Byte).length ∧
    0x200 + ([0x60, 0x05] : List Byte).length ≤ 0x202 := by decide +kernel

/-- Addresses on both sides of the font tables. -/
theorem test_hyp_FontsAreInMemoryAtReset :
    (0x04F < 0x050 ∨ 0x140 ≤ 0x04F) ∧ (0x140 < 0x050 ∨ 0x140 ≤ 0x140) ∧ 0x0A0 ≤ 0x0A0 := by decide +kernel

end Sys2Proof.Tests
end

section
/-! PROOFS of the family 00_scope.md. Executing an instruction has one of a few effects on the state; which piece of state
each instruction changes, and that every step keeps the invariant, are read off them. -/

namespace Sys2Proof.Machine

/-! ### What executing an instruction can do to the state -/

/-- The states `t` that executing `i` in `s` can leave, by the piece of state that changes. -/
inductive Effect (s : State) : Instr → State → Prop
  | raises {i : Instr} {k : ErrorKind} (notFetch : k ≠ .outOfMemory .fetch) : Effect s i (s.raiseIn k i)
  | stays {i : Instr} : Effect s i s
  | skips {i : Instr} : Effect s i s.skipNext
  | rewinds {x : Reg} : Effect s (.getKey x) (s.setPc (s.pc - 2))
  | jumps {nnn : Addr12} : Effect s (.jump nnn) (s.setPc (addressOf nnn))
  | jumpsOffset {nnn : Addr12} : Effect s (.jumpOffset nnn) (s.setPc (addressOf nnn + wordOfByte (s.reg 0)))
  | calls {nnn : Addr12} (room : s.stack.length < s.cfg.stackDepth) :
      Effect s (.call nnn) ((s.push s.pc).setPc (addressOf nnn))
  | returns {a : Word} {rest : List Word} (top : s.stack = a :: rest) : Effect s .ret { s with stack := rest, pc := a }
  | setsRegisters {i : Instr} {v : Vector Byte 16} {draws : Nat} : Effect s i { s with v := v, draws := draws }
  | setsIndex {i : Instr} {a : Word}
      (own : ∃ x nnn, i = .setIndex nnn ∨ i = .addIndex x ∨ i = .setIndexFont x ∨ i = .setIndexBigFont x) :
      Effect s i (s.setIndex a)
  | setsDelay {x : Reg} : Effect s (.setDelay x) { s with dt := s.reg x }
  | setsSound {x : Reg} : Effect s (.setSound x) { s with st := s.reg x }
  | stores {i : Instr} {a : Nat} {bytes : List Byte} : Effect s i (s.writeBytes a bytes)
  | exits (schip : s.cfg.variant = .schip) : Effect s .exit { s with running := false }
  | setsHires {i : Instr} {b : Bool} (schip : s.cfg.variant = .schip) (own : i = .hires ∨ i = .lores) :
      Effect s i { s with hires := b }
  | clears : Effect s .clearScreen { s with fb := Framebuffer.blank }
  | scrolls {i : Instr} {fb : Framebuffer} (schip : s.cfg.variant = .schip)
      (own : i = .scrollRight ∨ i = .scrollLeft ∨ ∃ n, i = .scrollDown n) : Effect s i { s with fb := fb }
  | draws {x y : Reg} {n : Nibble} : Effect s (.draw x y n) (drawnState s x y n)

/-- Executing `i` in `s` has an effect of `Effect`. -/
abbrev HasEffect (i : Instr) (s : State) : Prop := ∃ t, exec i s = .next t ∧ Effect s i t

/-- An instruction behind the variant gate has its effect in SCHIP, and raises an error in CHIP8. -/
theorem hasEffect_gated {i : Instr} {s e : State} (he : exec i s = schipOnly i s e)
    (effect : s.cfg.variant = .schip → Effect s i e) : HasEffect i s := by
  rcases schipOnly_cases i s e with ⟨hv, h⟩ | ⟨-, h⟩
  · exact ⟨e, he.trans h, effect hv⟩
  · exact ⟨_, he.trans h, .raises (by simp)⟩

/-- A conditional skip takes the skip or does nothing. -/
theorem effect_skip (i : Instr) (s : State) (p : Prop) [Decidable p] : Effect s i (if p then s.skipNext else s) := by
  split
  · exact .skips
  · exact .stays

theorem exec_hasEffect (i : Instr) (s : State) : HasEffect i s := by
  cases i with
  | setImm | addImm | set | or | and | xor | add | sub | rightShift | subReverse | leftShift | random | getDelay =>
    exact ⟨_, rfl, .setsRegisters⟩
  | clearScreen => exact ⟨_, rfl, .clears⟩
  | jump => exact ⟨_, rfl, .jumps⟩
  | jumpOffset => exact ⟨_, rfl, .jumpsOffset⟩
  | setDelay => exact ⟨_, rfl, .setsDelay⟩
  | setSound => exact ⟨_, rfl, .setsSound⟩
  | setIndex nnn => exact ⟨_, rfl, .setsIndex ⟨0, nnn, by simp⟩⟩
  | addIndex x | setIndexFont x => exact ⟨_, rfl, .setsIndex ⟨x, 0, by simp⟩⟩
  | setIndexBigFont x => exact hasEffect_gated rfl fun _ => .setsIndex ⟨x, 0, by simp⟩
  | scrollDown | scrollRight | scrollLeft => exact hasEffect_gated rfl fun hv => .scrolls hv (by simp)
  | lores | hires => exact hasEffect_gated rfl fun hv => .setsHires hv (by simp)
  | exit => exact hasEffect_gated rfl .exits
  | saveFlags | loadFlags => exact hasEffect_gated rfl fun _ => .stays
  | skipEqImm | skipNeImm | skipEqReg | skipNeReg => exact ⟨_, rfl, effect_skip _ s _⟩
  | skipIfKey x =>
    rcases h : s.keyDown (s.reg x) with _ | _ | _
    · exact ⟨_, exec_skipIfKey_none h, .raises (by simp)⟩
    · exact ⟨_, exec_skipIfKey_some h, .stays⟩
    · exact ⟨_, exec_skipIfKey_some h, .skips⟩
  | skipIfNotKey x =>
    rcases h : s.keyDown (s.reg x) with _ | _ | _
    · exact ⟨_, exec_skipIfNotKey_none h, .raises (by simp)⟩
    · exact ⟨_, exec_skipIfNotKey_some h, .skips⟩
    · exact ⟨_, exec_skipIfNotKey_some h, .stays⟩
  | ret =>
    rcases h : s.stack with _ | ⟨a, rest⟩
    · exact ⟨_, exec_ret_nil h, .raises (by simp)⟩
    · exact ⟨_, exec_ret_cons h, .returns h⟩
  | call nnn =>
    rcases Nat.lt_or_ge s.stack.length s.cfg.stackDepth with h | h
    · exact ⟨_, exec_call_room nnn h, .calls h⟩
    · exact ⟨_, exec_call_full nnn h, .raises (by simp)⟩
  | getKey x =>
    rcases h : lowestKey s.keysReleased with _ | k
    · exact ⟨_, exec_getKey_none x h, .rewinds⟩
    · exact ⟨_, exec_getKey_some x h, .setsRegisters⟩
  | draw x y n =>
    by_cases h : inMemory s.index.toNat (s.geometryOf x y n).bytes = true
    · exact ⟨_, exec_draw_inside x y n h, .draws⟩
    · exact ⟨_, exec_draw_outside x y n h, .raises (by simp)⟩
  | decimalConversion x =>
    by_cases h : inMemory s.index.toNat 3 = true
    · exact ⟨_, exec_decimalConversion_inside x h, .stores⟩
    · exact ⟨_, exec_decimalConversion_outside x h, .raises (by simp)⟩
  | storeMemory x =>
    by_cases h : inMemory s.index.toNat (registerCount x) = true
    · exact ⟨_, exec_storeMemory_inside x h, .stores⟩
    · exact ⟨_, exec_storeMemory_outside x h, .raises (by simp)⟩
  | loadMemory x =>
    by_cases h : inMemory s.index.toNat (registerCount x) = true
    · exact ⟨_, exec_loadMemory_inside x h, .setsRegisters⟩
    · exact ⟨_, exec_loadMemory_outside x h, .raises (by simp)⟩

theorem effect_of_exec {i : Instr} {s t : State} (h : exec i s = .next t) : Effect s i t := by
  obtain ⟨u, hu, effect⟩ := exec_hasEffect i s
  cases hu.symm.trans h
  exact effect

/-! ### Each piece of state and the instructions that change it -/

section
variable {i : Instr} {s t : State}

theorem Effect.index_eq (h : Effect s i t) :
    t.index = s.index ∨ ∃ x nnn, i = .setIndex nnn ∨ i = .addIndex x ∨ i = .setIndexFont x ∨ i = .setIndexBigFont x := by
  cases h with
  | setsIndex own => exact .inr own
  | _ => exact .inl rfl

theorem Effect.stack_eq (h : Effect s i t) : t.stack = s.stack ∨ i = .ret ∨ ∃ nnn, i = .call nnn := by
  cases h with
  | returns => exact .inr (.inl rfl)
  | calls => exact .inr (.inr ⟨_, rfl⟩)
  | _ => exact .inl rfl

theorem Effect.dt_eq (h : Effect s i t) : t.dt = s.dt ∨ ∃ x, i = .setDelay x := by
  cases h with
  | setsDelay => exact .inr ⟨_, rfl⟩
  | _ => exact .inl rfl

theorem Effect.st_eq (h : Effect s i t) : t.st = s.st ∨ ∃ x, i = .setSound x := by
  cases h with
  | setsSound => exact .inr ⟨_, rfl⟩
  | _ => exact .inl rfl

theorem Effect.hires_eq (h : Effect s i t) : t.hires = s.hires ∨ i = .hires ∨ i = .lores := by
  cases h with
  | setsHires _ own => exact .inr own
  | _ => exact .inl rfl

theorem Effect.running_eq (h : Effect s i t) : t.running = s.running ∨ i = .exit := by
  cases h with
  | exits => exact .inr rfl
  | _ => exact .inl rfl

theorem Effect.fb_eq (h : Effect s i t) :
    t.fb = s.fb ∨ i = .clearScreen ∨ i = .scrollRight ∨ i = .scrollLeft ∨
      (∃ n, i = .scrollDown n) ∨ ∃ x y n, i = .draw x y n := by
  cases h with
  | clears => exact .inr (.inl rfl)
  | scrolls _ own =>
    rcases own with rfl | rfl | ⟨n, rfl⟩ <;> simp
  | draws => simp
  | _ => exact .inl rfl

/-- No instruction changes the inputs of the tick or the configuration (R3, R32). -/
theorem Effect.inputs_eq (h : Effect s i t) :
    t.keysDown = s.keysDown ∧ t.keysReleased = s.keysReleased ∧ t.cfg = s.cfg ∧ t.requests = s.requests ∧
      t.ticks = s.ticks := by
  cases h <;> exact ⟨rfl, rfl, rfl, rfl, rfl⟩

end

/-- Settles O54: each clause is read off the effects of an instruction. -/
theorem stateIsChangedOnlyByItsInstructions : Obligations.StateIsChangedOnlyByItsInstructions := by
  intro i s t h
  have e := effect_of_exec h
  exact ⟨e.index_eq, e.stack_eq, e.dt_eq, e.st_eq, e.hires_eq, e.running_eq, e.fb_eq, e.inputs_eq⟩

end Sys2Proof.Machine
end

section
/-! PROOFS of the family 00_scope.md. Every step keeps the invariant. Inside a step the invariant is carried as that of the
closed state, `(closeStep s).Inv`, since `Exit` ends its tick only when the step closes: opening the tick gives it, every
effect of an instruction keeps it, and the end of the step is it. -/

namespace Sys2Proof.Machine

/-! ### Where an instruction can leave `pc` (R19) -/

theorem toNat_add_two {a : Word} (h : a.toNat ≤ 0x1000) : (a + 2).toNat = a.toNat + 2 := by
  bv_omega

/-- The fetch, below the end of memory, leaves `pc` at 2 or more and at 4096 or less. -/
theorem advance_pc_bounds {s : State} (h : s.pc.toNat + 1 < memSize) :
    2 ≤ s.advance.pc.toNat ∧ s.advance.pc.toNat ≤ 0x1000 := by
  simp only [memSize] at h
  rw [advance_pc, toNat_add_two (by omega)]
  omega

theorem toNat_sub_two {a : Word} (h : 2 ≤ a.toNat) : (a - 2).toNat = a.toNat - 2 := by
  bv_omega

theorem toNat_addressOf (nnn : Addr12) : (addressOf nnn).toNat = nnn.toNat := by
  simp only [addressOf, BitVec.truncate_eq_setWidth, BitVec.toNat_setWidth]
  omega

theorem toNat_addressOf_le (nnn : Addr12) : (addressOf nnn).toNat ≤ 0x10FE := by
  rw [toNat_addressOf]
  omega

theorem toNat_wordOfByte (b : Byte) : (wordOfByte b).toNat = b.toNat := by
  simp only [wordOfByte, BitVec.truncate_eq_setWidth, BitVec.toNat_setWidth]
  omega

theorem toNat_addressOf_add_le (nnn : Addr12) (b : Byte) : (addressOf nnn + wordOfByte b).toNat ≤ 0x10FE := by
  rw [BitVec.toNat_add, toNat_addressOf, toNat_wordOfByte]
  omega

/-! ### Pixels off a CHIP8 display (R24) -/

theorem pixel_blank (x y : Nat) : Framebuffer.pixel Framebuffer.blank x y = false := by
  rcases Nat.lt_or_ge y 64 with h | h
  · rw [pixel_of_lt _ _ h]; simp [Framebuffer.blank]
  · exact pixel_of_ge _ _ h

/-- A sprite changes no pixel off the display (R112). -/
theorem pixel_drawnState_of_off_display {s : State} {x y : Reg} {n : Nibble} {px py : Nat}
    (off : (s.geometryOf x y n).dispW ≤ px ∨ (s.geometryOf x y n).dispH ≤ py) :
    (drawnState s x y n).pixel px py = s.pixel px py := by
  obtain ⟨hw, hh⟩ := geometryOf_fits s x y n
  have onGrid : ∀ p ∈ s.spritePixels (s.geometryOf x y n), p.1 < 128 ∧ p.2 < 64 := by
    intro p hp
    obtain ⟨h1, h2, -⟩ := (mem_spritePixels s _ p.1 p.2).1 hp
    omega
  have notPainted : (px, py) ∉ s.spritePixels (s.geometryOf x y n) := by
    intro hp
    obtain ⟨h1, h2, -⟩ := (mem_spritePixels s _ px py).1 hp
    omega
  exact ((drawPixels_spec s.fb _ (nodup_spritePixels s _) onGrid).1 px py).trans (if_neg notPainted)

theorem geometryOf_chip8 {s : State} (hv : s.cfg.variant = .chip8) (x y : Reg) (n : Nibble) :
    (s.geometryOf x y n).dispW = 64 ∧ (s.geometryOf x y n).dispH = 32 := by
  simp [State.geometryOf, geometry, hv]

theorem variant_ne_chip8 {s : State} (schip : s.cfg.variant = .schip) : s.cfg.variant ≠ .chip8 := by
  simp [schip]

/-! ### The parts of a step -/

theorem State.Inv.running_of_not_exited {s : State} (h : s.Inv) (he : s.exited = false) : s.running = true := by
  rcases hv : s.cfg.variant
  · exact (h.chip8 hv).2.1
  · exact (exited_eq_false_iff s).1 he hv

theorem stepsLeft_closeStep_le (s : State) : (closeStep s).stepsLeft ≤ s.stepsLeft := by
  rw [closeStep_stepsLeft]
  split <;> omega

theorem stepsLeft_openTick_le_stepCap {s : State} (h : s.Inv) (ht : s.cfg.throttled = true) (hs : 0 < s.cfg.speed) :
    (openTick s).stepsLeft ≤ stepCap s.cfg := by
  rcases Nat.eq_zero_or_pos s.stepsLeft with h0 | h0
  · rw [openTick_of_start h0]; exact tickSteps_le_stepCap _ ht hs
  · rw [openTick_of_open (by omega)]; exact h.throttle ht hs

/-- A machine that may run a step opens its tick into a state that keeps the invariant when the step closes. -/
theorem State.Inv.closeStep_openTick {s : State} (h : s.Inv) (hh : s.halted = false) (he : s.exited = false) :
    (closeStep (openTick s)).Inv :=
  { h with
    tickEnded := by simp [hh, h.running_of_not_exited he]
    throttle := fun ht hs => (stepsLeft_closeStep_le _).trans (stepsLeft_openTick_le_stepCap h ht hs) }

/-- The fetch's advance, below the end of memory. -/
theorem State.Inv.closeStep_advance {s : State} (h : (closeStep s).Inv) (hpc : s.pc.toNat + 1 < memSize) :
    (closeStep s.advance).Inv :=
  { h with
    pcBound := (advance_pc_bounds hpc).2.trans (by decide) }

/-- Taking an error, where none has halted the machine yet. -/
theorem State.Inv.closeStep_raise {s : State} {e : ErrorRecord} (h : (closeStep s).Inv) (hh : s.halted = false)
    (opcode : e.opcode = none ↔ e.kind = .outOfMemory .fetch) : (closeStep (s.raise e)).Inv :=
  { h with
    latch := by simp [hh]
    opcode := by
      rintro e' he
      cases he
      exact opcode
    tickEnded := by simp
    throttle := by simp }

/-- Every effect of an instruction keeps the invariant; `pc` is what the fetch has advanced it to. -/
theorem Effect.closeStep_inv {i : Instr} {s t : State} (effect : Effect s i t) (h : (closeStep s).Inv)
    (hh : s.halted = false) (low : 2 ≤ s.pc.toNat) (high : s.pc.toNat ≤ 0x1000) : (closeStep t).Inv := by
  cases effect with
  | raises notFetch => exact h.closeStep_raise hh (by simp [State.errorOf, notFetch])
  | stays => exact h
  | setsRegisters | setsIndex | setsDelay | setsSound => exact { h with }
  | skips => exact { h with pcBound := (toNat_add_two high).trans_le (by omega) }
  | rewinds => exact { h with pcBound := (toNat_sub_two low).trans_le (by omega) }
  | jumps => exact { h with pcBound := toNat_addressOf_le _ }
  | jumpsOffset => exact { h with pcBound := toNat_addressOf_add_le _ _ }
  | calls room =>
    exact { h with
      depth := room
      returns := List.forall_mem_cons.2 ⟨high, h.returns⟩
      pcBound := toNat_addressOf_le _ }
  | @returns a rest top =>
    have depth : (a :: rest).length ≤ s.cfg.stackDepth := top ▸ h.depth
    have bounds : ∀ b ∈ a :: rest, b.toNat ≤ 0x1000 := top ▸ h.returns
    obtain ⟨ha, hrest⟩ := List.forall_mem_cons.1 bounds
    exact { h with
      depth := (Nat.le_succ _).trans depth
      returns := hrest
      pcBound := ha.trans (by decide) }
  | stores => exact { h with memory := Memory.wf_writeAll _ _ _ _ h.memory }
  | exits schip =>
    exact { h with
      chip8 := fun hv => absurd hv (variant_ne_chip8 schip)
      tickEnded := by simp [State.exited, schip]
      throttle := by simp [State.exited, schip] }
  | setsHires schip | scrolls schip => exact { h with chip8 := fun hv => absurd hv (variant_ne_chip8 schip) }
  | clears =>
    refine { h with chip8 := fun hv => ?_ }
    obtain ⟨hires, running, -⟩ := h.chip8 hv
    exact ⟨hires, running, fun x y _ => pixel_blank x y⟩
  | @draws x y n =>
    refine { h with chip8 := fun hv => ?_ }
    obtain ⟨hires, running, pixels⟩ := h.chip8 hv
    obtain ⟨hw, hh⟩ := geometryOf_chip8 (s := s) hv x y n
    exact ⟨hires, running, fun px py off =>
      (pixel_drawnState_of_off_display (by omega)).trans (pixels px py off)⟩

/-- Fetching, decoding and executing one instruction keep the invariant and the configuration. -/
theorem fetchAndExecute_closeStep_inv {s : State} (h : (closeStep s).Inv) (hh : s.halted = false) :
    ∃ t, fetchAndExecute s = .next t ∧ (closeStep t).Inv ∧ t.cfg = s.cfg := by
  rcases fetchAndExecute_cases s with ⟨-, he⟩ | ⟨hpc, i, -, he⟩ | ⟨hpc, -, -, he⟩
  · exact ⟨_, he, h.closeStep_raise hh (by simp), rfl⟩
  · obtain ⟨t, ht, effect⟩ := exec_hasEffect i s.advance
    obtain ⟨-, -, cfg, -⟩ := effect.inputs_eq
    obtain ⟨low, high⟩ := advance_pc_bounds hpc
    exact ⟨t, he.trans ht, effect.closeStep_inv (h.closeStep_advance hpc) hh low high, cfg⟩
  · exact ⟨_, he, (h.closeStep_advance hpc).closeStep_raise hh (by simp), rfl⟩

/-- Settles O57: a step answers a tick without running, or runs one instruction between the opening and the closing. -/
theorem stepKeepsTheInvariant : Obligations.StepKeepsTheInvariant := by
  intro s t h hstep
  rcases step_cases s with ⟨-, hs⟩ | ⟨-, -, hs⟩ | ⟨-, -, -, hs⟩ | ⟨hh, he, -, hs⟩ <;> rw [hs] at hstep
  · cases hstep; exact ⟨{ h with }, rfl⟩
  · cases hstep; exact ⟨{ h with }, rfl⟩
  · cases hstep
  · obtain ⟨u, hu, inv, cfg⟩ := fetchAndExecute_closeStep_inv (h.closeStep_openTick hh he) hh
    rw [hu] at hstep
    cases hstep
    exact ⟨inv, cfg⟩

end Sys2Proof.Machine
end

section
/-! PROOFS of the family 10_state.md. Executing an instruction raises an error or completes it: `pc` is then where the table of
R17 puts it, and only the registers, the flag and the memory that are the instruction's own may differ. The keys reach no
instruction but the three that name them. -/

namespace Sys2Proof.Machine

/-! ### Where a completed instruction leaves `pc` (R17) -/

theorem addressOf_eq_ofNat (nnn : Addr12) : addressOf nnn = BitVec.ofNat 16 nnn.toNat :=
  (BitVec.ofNat_toNat 16 nnn).symm

theorem addressOf_add_wordOfByte (nnn : Addr12) (b : Byte) :
    addressOf nnn + wordOfByte b = BitVec.ofNat 16 (nnn.toNat + b.toNat) := by
  rw [BitVec.ofNat_add, addressOf_eq_ofNat, wordOfByte, BitVec.ofNat_toNat, BitVec.ofNat_toNat]

theorem lowestKey_eq_none_iff (keys : KeyVector) : lowestKey keys = none ↔ keys = Vector.replicate 16 false := by
  constructor
  · intro h
    rw [lowestKey, List.findIdx?_eq_none_iff] at h
    apply Vector.ext
    intro k hk
    rw [Vector.getElem_replicate]
    exact h keys[k] (by simp)
  · rintro rfl
    exact lowestKey_eq_none (by simp)

/-! ### What a completed instruction leaves -/

/-- `t` is a state that the completed instruction `i` may leave from `s`: `pc`, the registers, the flag and memory are as the
rules over all instructions say (R15, R17, R29). -/
structure Completes (i : Instr) (s t : State) : Prop where
  pc : t.pc = i.pcAfter s
  registers : ∀ r, ¬i.writesRegister r → (r = VF → i.writesFlag = false) → t.reg r = s.reg r
  flag : i.writesFlag = true → t.reg VF = 0 ∨ t.reg VF = 1
  memory : i.stores = false → SameMemory s t

/-- Executing `i` in `s` raises an error and does nothing else, or completes. -/
abbrev RaisesOrCompletes (i : Instr) (s : State) : Prop :=
  (∃ k, exec i s = .next (s.raiseIn k i)) ∨ ∃ t, exec i s = .next t ∧ Completes i s t

section
variable {i : Instr} {s t : State}

/-- An instruction that writes neither registers nor memory. -/
theorem completes_of_same (pc : t.pc = i.pcAfter s) (v : t.v = s.v) (cfg : t.cfg = s.cfg) (mem : t.mem = s.mem)
    (noFlag : i.writesFlag = false) : Completes i s t where
  pc := pc
  registers r _ _ := reg_congr v r
  flag h := by simp [noFlag] at h
  memory _ a := readByte_congr cfg mem a

/-- An instruction that writes its destination `V[x]` and no flag. -/
theorem completes_setReg {x : Reg} (b : Byte) (pc : s.pc = i.pcAfter s) (noFlag : i.writesFlag = false)
    (own : i.writesRegister x) : Completes i s (s.setReg x b) where
  pc := pc
  registers r hr _ := reg_setReg_of_ne s b fun h => hr (h ▸ own)
  flag h := by simp [noFlag] at h
  memory _ _ := rfl

theorem flagByte_eq_zero_or_one (b : Bool) : flagByte b = 0 ∨ flagByte b = 1 := by
  cases b <;> simp [flagByte]

/-- An instruction that writes its destination `V[x]` and then the flag. -/
theorem completes_setResultAndFlag {x : Reg} (b : Byte) (f : Bool) (pc : s.pc = i.pcAfter s)
    (writesFlag : i.writesFlag = true) (own : i.writesRegister x) : Completes i s (s.setResultAndFlag x b f) where
  pc := pc
  registers r hr hf := by
    have notFlag : r ≠ VF := by simpa [writesFlag] using hf
    have notOwn : r ≠ x := fun h => hr (h ▸ own)
    rw [reg_setResultAndFlag, if_neg notFlag, if_neg notOwn]
  flag _ := by
    rw [reg_setResultAndFlag, if_pos rfl]
    exact flagByte_eq_zero_or_one f
  memory _ _ := rfl

/-- A skip under the condition `p`. -/
theorem completes_skip (p : Prop) [Decidable p] (pc : i.pcAfter s = if p then s.pc + 2 else s.pc)
    (noFlag : i.writesFlag = false) : Completes i s (if p then s.skipNext else s) := by
  by_cases h : p
  · rw [if_pos h] at pc ⊢
    exact completes_of_same pc.symm rfl rfl rfl noFlag
  · rw [if_neg h] at pc ⊢
    exact completes_of_same pc.symm rfl rfl rfl noFlag

theorem completes_writeBytes (a : Nat) (bytes : List Byte) (pc : s.pc = i.pcAfter s) (noFlag : i.writesFlag = false)
    (stores : i.stores = true) : Completes i s (s.writeBytes a bytes) where
  pc := pc
  registers _ _ _ := rfl
  flag h := by simp [noFlag] at h
  memory h := by simp [stores] at h

end

theorem completes_loadRegisters (s : State) (x : Reg) : Completes (.loadMemory x) s (s.loadRegisters x) where
  pc := loadRegisters_pc s x
  registers r hr _ := (reg_loadRegisters s x r).trans (if_neg hr)
  flag h := by cases h
  memory _ := readByte_congr (loadRegisters_cfg s x) (loadRegisters_mem s x)

theorem completes_drawnState (s : State) (x y : Reg) (n : Nibble) : Completes (.draw x y n) s (drawnState s x y n) where
  pc := rfl
  registers r _ hf := by
    have notFlag : r ≠ VF := fun h => Bool.noConfusion (hf h)
    exact reg_setReg_of_ne _ _ notFlag
  flag _ := by
    rw [drawnState, reg_setReg_self]
    exact flagByte_eq_zero_or_one _
  memory _ _ := rfl

/-- An instruction behind the variant gate raises an error in CHIP8 and completes in SCHIP. -/
theorem raisesOrCompletes_gated {i : Instr} {s e : State} (he : exec i s = schipOnly i s e) (h : Completes i s e) :
    RaisesOrCompletes i s := by
  rcases schipOnly_cases i s e with ⟨-, hs⟩ | ⟨-, hs⟩
  · exact .inr ⟨e, he.trans hs, h⟩
  · exact .inl ⟨_, he.trans hs⟩

theorem exec_raisesOrCompletes (i : Instr) (s : State) : RaisesOrCompletes i s := by
  cases i with
  | clearScreen | setIndex | addIndex | setIndexFont | setDelay | setSound =>
    exact .inr ⟨_, rfl, completes_of_same rfl rfl rfl rfl rfl⟩
  | scrollDown | scrollRight | scrollLeft | exit | lores | hires | setIndexBigFont | saveFlags | loadFlags =>
    exact raisesOrCompletes_gated rfl (completes_of_same rfl rfl rfl rfl rfl)
  | setImm | addImm | set | or | and | xor | getDelay =>
    exact .inr ⟨_, rfl, completes_setReg _ rfl rfl rfl⟩
  | random x nn =>
    have h := completes_setReg (i := .random x nn) (s := s) (Config.randomDraw s.draws &&& nn) rfl rfl rfl
    exact .inr ⟨_, rfl, { h with }⟩
  | add | sub | subReverse | rightShift | leftShift =>
    exact .inr ⟨_, rfl, completes_setResultAndFlag _ _ rfl rfl rfl⟩
  | jump nnn => exact .inr ⟨_, rfl, completes_of_same (addressOf_eq_ofNat nnn) rfl rfl rfl rfl⟩
  | jumpOffset nnn => exact .inr ⟨_, rfl, completes_of_same (addressOf_add_wordOfByte nnn _) rfl rfl rfl rfl⟩
  | skipEqImm | skipEqReg => exact .inr ⟨_, rfl, completes_skip _ rfl rfl⟩
  | skipNeImm | skipNeReg => exact .inr ⟨_, rfl, completes_skip _ (ite_not ..).symm rfl⟩
  | ret =>
    rcases h : s.stack with _ | ⟨a, rest⟩
    · exact .inl ⟨_, exec_ret_nil h⟩
    · exact .inr ⟨_, exec_ret_cons h, completes_of_same (by simp [Instr.pcAfter, h]) rfl rfl rfl rfl⟩
  | call nnn =>
    rcases Nat.lt_or_ge s.stack.length s.cfg.stackDepth with h | h
    · exact .inr ⟨_, exec_call_room nnn h, completes_of_same (addressOf_eq_ofNat nnn) rfl rfl rfl rfl⟩
    · exact .inl ⟨_, exec_call_full nnn h⟩
  | skipIfKey x =>
    rcases h : s.keyDown (s.reg x) with _ | down
    · exact .inl ⟨_, exec_skipIfKey_none h⟩
    · refine .inr ⟨_, exec_skipIfKey_some h, completes_skip _ ?_ rfl⟩
      rw [State.keyDown] at h
      simp [Instr.pcAfter, h]
  | skipIfNotKey x =>
    rcases h : s.keyDown (s.reg x) with _ | down
    · exact .inl ⟨_, exec_skipIfNotKey_none h⟩
    · refine .inr ⟨_, exec_skipIfNotKey_some h, ?_⟩
      rw [← ite_not]
      refine completes_skip _ ?_ rfl
      rw [State.keyDown] at h
      simp [Instr.pcAfter, h]
  | getKey x =>
    have pc := lowestKey_eq_none_iff s.keysReleased
    rcases h : lowestKey s.keysReleased with _ | k
    · refine .inr ⟨_, exec_getKey_none x h, completes_of_same ?_ rfl rfl rfl rfl⟩
      exact (if_pos (pc.1 h)).symm
    · refine .inr ⟨_, exec_getKey_some x h, completes_setReg _ ?_ rfl rfl⟩
      exact (if_neg (mt pc.2 (by simp [h]))).symm
  | draw x y n =>
    by_cases h : inMemory s.index.toNat (s.geometryOf x y n).bytes = true
    · exact .inr ⟨_, exec_draw_inside x y n h, completes_drawnState s x y n⟩
    · exact .inl ⟨_, exec_draw_outside x y n h⟩
  | decimalConversion x =>
    by_cases h : inMemory s.index.toNat 3 = true
    · exact .inr ⟨_, exec_decimalConversion_inside x h, completes_writeBytes _ _ rfl rfl rfl⟩
    · exact .inl ⟨_, exec_decimalConversion_outside x h⟩
  | storeMemory x =>
    by_cases h : inMemory s.index.toNat (registerCount x) = true
    · exact .inr ⟨_, exec_storeMemory_inside x h, completes_writeBytes _ _ rfl rfl rfl⟩
    · exact .inl ⟨_, exec_storeMemory_outside x h⟩
  | loadMemory x =>
    by_cases h : inMemory s.index.toNat (registerCount x) = true
    · exact .inr ⟨_, exec_loadMemory_inside x h, completes_loadRegisters s x⟩
    · exact .inl ⟨_, exec_loadMemory_outside x h⟩

theorem raises_or_completes_of_exec {i : Instr} {s t : State} (h : exec i s = .next t) :
    (∃ k, t = s.raiseIn k i) ∨ Completes i s t := by
  rcases exec_raisesOrCompletes i s with ⟨k, hk⟩ | ⟨u, hu, c⟩
  · cases hk.symm.trans h
    exact .inl ⟨k, rfl⟩
  · cases hu.symm.trans h
    exact .inr c

theorem afterError_raiseIn (k : ErrorKind) (i : Instr) (s : State) : AfterError (s.errorOf k i) s (s.raiseIn k i) := rfl

/-- Settles O52: an error leaves every register, and a completed instruction writes only its own and the flag. -/
theorem onlyFlagWritersWriteVF : Obligations.OnlyFlagWritersWriteVF := by
  intro i s t h
  rcases raises_or_completes_of_exec h with ⟨k, rfl⟩ | c
  · exact ⟨fun _ _ => rfl, fun _ => .inr (.inr ⟨_, afterError_raiseIn k i s⟩), fun _ _ _ => rfl⟩
  · refine ⟨fun noFlag notOwn => c.registers VF notOwn fun _ => noFlag, fun writesFlag => ?_, fun r hr notOwn => ?_⟩
    · exact (c.flag writesFlag).imp_right .inl
    · exact c.registers r notOwn fun h => absurd h hr

/-- Settles O53: an error leaves memory, and so does a completed instruction that does not store. -/
theorem onlyStoringInstructionsChangeMemory : Obligations.OnlyStoringInstructionsChangeMemory := by
  intro i s t h noStore
  rcases raises_or_completes_of_exec h with ⟨k, rfl⟩ | c
  · exact fun _ => rfl
  · exact c.memory noStore

/-- Settles O55: an error leaves `pc`, and a completed instruction puts it where the table says. -/
theorem pcAfterEveryInstruction : Obligations.PcAfterEveryInstruction := by
  intro i s t h
  rcases raises_or_completes_of_exec h with ⟨k, rfl⟩ | c
  · exact .inr ⟨rfl, _, afterError_raiseIn k i s, rfl⟩
  · exact .inl c.pc

/-! ### The keys (R32, R61) -/

/-- `s` with other keys held for its tick. -/
def State.withKeys (s : State) (down released : KeyVector) : State :=
  { s with keysDown := down, keysReleased := released }

/-- The variant gate does not look at the keys. -/
theorem exec_withKeys_gated {i : Instr} {s e : State} {down released : KeyVector} (he : exec i s = schipOnly i s e)
    (hk : exec i (s.withKeys down released) = schipOnly i (s.withKeys down released) (e.withKeys down released)) :
    exec i (s.withKeys down released) = thenDo (exec i s) (State.withKeys · down released) := by
  rw [he, hk]
  rcases schipOnly_cases i s e with ⟨hv, h⟩ | ⟨hv, h⟩ <;> rw [h]
  · exact schipOnly_schip hv
  · exact schipOnly_chip8 hv

/-- A check with two ends that does not look at the keys. -/
theorem exec_withKeys_checked {i : Instr} {s a b : State} {down released : KeyVector} {p : Prop} {_ : Decidable p}
    (he : exec i s = if p then .next a else .next b)
    (hk : exec i (s.withKeys down released) =
      if p then .next (a.withKeys down released) else .next (b.withKeys down released)) :
    exec i (s.withKeys down released) = thenDo (exec i s) (State.withKeys · down released) := by
  rw [he, hk]
  split <;> rfl

section
variable (s : State) (down released : KeyVector)

theorem skip_withKeys (p : Prop) [Decidable p] :
    (if p then (s.withKeys down released).skipNext else s.withKeys down released) =
      (if p then s.skipNext else s).withKeys down released :=
  (apply_ite (State.withKeys · down released) p s.skipNext s).symm

/-- A sprite is read from memory alone. -/
theorem spritePixels_withKeys (g : Geometry) : (s.withKeys down released).spritePixels g = s.spritePixels g := by
  have bits : (s.withKeys down released).spriteBit g = s.spriteBit g := rfl
  simp only [State.spritePixels, bits]

theorem drawnState_withKeys (x y : Reg) (n : Nibble) :
    drawnState (s.withKeys down released) x y n = (drawnState s x y n).withKeys down released := by
  have geometry : (s.withKeys down released).geometryOf x y n = s.geometryOf x y n := rfl
  rw [drawnState, geometry, spritePixels_withKeys]
  rfl

/-- Exchanging the keys before an instruction that reads none is exchanging them after it. -/
theorem exec_withKeys (i : Instr) (noKeys : ∀ x, i ≠ .skipIfKey x ∧ i ≠ .skipIfNotKey x ∧ i ≠ .getKey x) :
    exec i (s.withKeys down released) = thenDo (exec i s) (State.withKeys · down released) := by
  cases i with
  | skipIfKey x | skipIfNotKey x | getKey x => simpa using noKeys x
  | clearScreen | setImm | addImm | set | or | and | xor | add | sub | rightShift | subReverse | leftShift | jump
  | setIndex | jumpOffset | random | getDelay | setDelay | setSound | addIndex | setIndexFont => rfl
  | scrollDown | scrollRight | scrollLeft | exit | lores | hires | setIndexBigFont | saveFlags | loadFlags =>
    exact exec_withKeys_gated rfl rfl
  | skipEqImm | skipNeImm | skipEqReg | skipNeReg =>
    exact congrArg Host.Outcome.next (skip_withKeys s down released _)
  | ret =>
    rcases h : s.stack with _ | ⟨a, rest⟩
    · rw [exec_ret_nil h]; exact exec_ret_nil h
    · rw [exec_ret_cons h]; exact exec_ret_cons h
  | call | decimalConversion | storeMemory | loadMemory => exact exec_withKeys_checked rfl rfl
  | draw x y n =>
    by_cases h : inMemory s.index.toNat (s.geometryOf x y n).bytes = true
    · rw [exec_draw_inside x y n h, thenDo_next, ← drawnState_withKeys]; exact exec_draw_inside x y n h
    · rw [exec_draw_outside x y n h]; exact exec_draw_outside x y n h

end

/-- Settles O56: executing any other instruction and exchanging the keys commute. -/
theorem keysReachOnlyKeyInstructions : Obligations.KeysReachOnlyKeyInstructions := by
  intro i s t down released noKeys h
  have commutes := exec_withKeys s down released i noKeys
  rw [h] at commutes
  exact commutes

end Sys2Proof.Machine
end

section
/-! PROOFS of the family 10_state.md. What a step answers, a `Return` after a `Call`, and the state that construction leaves. -/

namespace Sys2Proof.Machine

/-! ### What a step answers -/

/-- Settles O9. -/
theorem haltedTickChangesNothing : Obligations.HaltedTickChangesNothing :=
  fun _ h => step_of_halted h

/-- The fetch, the decoding and the execution of one instruction always have a next state. -/
theorem fetchAndExecute_next (s : State) : ∃ t, fetchAndExecute s = .next t := by
  rcases fetchAndExecute_cases s with ⟨-, h⟩ | ⟨-, i, -, h⟩ | ⟨-, -, -, h⟩
  · exact ⟨_, h⟩
  · rw [h]; exact exec_next i _
  · exact ⟨_, h⟩

/-- Settles O11: of the four ends of a step only the refusal has no next state, and its condition is the second clause's. -/
theorem stepAnswersUnlessSpeedIsNotPositive : Obligations.StepAnswersUnlessSpeedIsNotPositive := by
  refine fun s => ⟨fun answers => ?_, fun ⟨hh, he, hs⟩ => step_of_speed hh ((exited_eq_false_iff s).2 he) hs⟩
  rcases step_cases s with ⟨-, h⟩ | ⟨-, -, h⟩ | ⟨hh, he, hs, -⟩ | ⟨-, -, -, h⟩
  · exact ⟨_, h⟩
  · exact ⟨_, h⟩
  · rcases answers with halted | ⟨schip, stopped⟩ | positive
    · simp [hh] at halted
    · simp [(exited_eq_false_iff s).1 he schip] at stopped
    · exact absurd positive hs.not_gt
  · obtain ⟨t, ht⟩ := fetchAndExecute_next (openTick s)
    rw [h, ht]
    exact ⟨closeStep t, rfl⟩

/-- Settles O26. -/
theorem returnUndoesCall : Obligations.ReturnUndoesCall :=
  fun _ nnn room => ⟨_, _, exec_call_room nnn room, exec_ret_cons rfl, rfl⟩

/-! ### Construction (R36, R40) -/

theorem construct_of_fits (c : Config) {image : List Byte} (h : image.length ≤ maxImage) :
    construct c image = some ((State.initial c).writeBytes progBase image) := if_pos h

theorem construct_of_not_fits (c : Config) {image : List Byte} (h : maxImage < image.length) :
    construct c image = none := if_neg (Nat.not_le.2 h)

theorem readByte_initial (c : Config) (a : Nat) : (State.initial c).readByte a = c.byteAtReset a := rfl

theorem reg_initial (c : Config) (r : Reg) : (State.initial c).reg r = 0 := by
  simp [State.reg, State.initial]

/-- The framebuffer of construction is the blank one. -/
theorem pixel_initial (c : Config) (x y : Nat) : (State.initial c).pixel x y = false := pixel_blank x y

theorem State.inv_initial (c : Config) : (State.initial c).Inv where
  memory := Memory.wf_nil c
  depth := Nat.zero_le _
  returns := by simp [State.initial]
  pcBound := by simp [State.initial]
  chip8 _ := ⟨rfl, rfl, fun x y _ => pixel_initial c x y⟩
  latch := by simp [State.initial]
  opcode := by simp [State.initial]
  tickEnded _ := rfl
  throttle _ _ := Nat.zero_le _

theorem State.Inv.writeBytes {s : State} (h : s.Inv) (a : Nat) (bytes : List Byte) : (s.writeBytes a bytes).Inv :=
  { h with memory := Memory.wf_writeAll s.cfg a bytes s.mem h.memory }

/-- Settles O58: the initial state meets the invariant, and copying the image into it keeps it. -/
theorem constructionMeetsTheInvariant : Obligations.ConstructionMeetsTheInvariant :=
  ⟨State.inv_initial _, fun c _ =>
    ⟨fun fits => ⟨_, construct_of_fits c fits, (State.inv_initial c).writeBytes _ _⟩, construct_of_not_fits c⟩⟩

/-- Settles O59: the image stands where it was copied, and everything else is as in the initial state. -/
theorem constructionValues : Obligations.ConstructionValues := by
  intro c image fits
  refine ⟨_, construct_of_fits c fits, rfl, reg_initial c, rfl, rfl, rfl, rfl, rfl, pixel_initial c, rfl, rfl, rfl, rfl, rfl,
    fun j hj => ?_, fun a outside => ?_⟩
  · have inside : progBase + image.length ≤ memSize := by
      simp only [progBase, memSize]
      omega
    rw [readByte_writeBytes_inside _ _ j image (Memory.wf_nil c) inside hj, List.getElem?_eq_getElem hj, Option.getD_some]
  · rw [readByte_writeBytes_outside _ _ _ _ (by simp only [progBase]; omega), readByte_initial]

end Sys2Proof.Machine
end

section
/-! PROOFS of the family 10_state.md. What memory holds at construction, by the ranges of the font tables (R30, R31, R38). -/

namespace Sys2Proof

/-- Byte `j` of glyph `g` stands at offset `n·g + j`. -/
theorem fontByte_glyph {n : Nat} (font : Vector (Vector Byte n) 16) (g : Fin 16) (j : Fin n) :
    fontByte font (n * g.val + j.val) = font[g][j] := by
  have hn : 0 < n := j.pos
  have glyph : (n * g.val + j.val) / n = g.val := by
    rw [Nat.mul_add_div hn, Nat.div_eq_of_lt j.isLt, Nat.add_zero]
  have byte : (n * g.val + j.val) % n = j.val := by
    rw [Nat.mul_add_mod, Nat.mod_eq_of_lt j.isLt]
  simp [fontByte, glyph, byte]

section
variable {c : Config} {a : Nat}

theorem byteAtReset_of_bigFont (h : c.variant = .schip ∧ c.bigFontBase ≤ a ∧ a < c.bigFontBase + 160) :
    c.byteAtReset a = fontByte c.bigFontData (a - c.bigFontBase) := if_pos h

theorem byteAtReset_of_font (noBig : ¬(c.variant = .schip ∧ c.bigFontBase ≤ a ∧ a < c.bigFontBase + 160))
    (h : c.fontBase ≤ a ∧ a < c.fontBase + 80) : c.byteAtReset a = fontByte c.fontData (a - c.fontBase) :=
  (if_neg noBig).trans (if_pos h)

theorem byteAtReset_of_no_font (noBig : ¬(c.variant = .schip ∧ c.bigFontBase ≤ a ∧ a < c.bigFontBase + 160))
    (noFont : ¬(c.fontBase ≤ a ∧ a < c.fontBase + 80)) : c.byteAtReset a = 0 :=
  (if_neg noBig).trans (if_neg noFont)

end

theorem byteAtReset_standard_font (v : Variant) (g : Fin 16) (j : Fin 5) :
    (Config.standard v).byteAtReset (0x050 + 5 * g.val + j.val) = defaultFont[g][j] := by
  rw [byteAtReset_of_font] <;> simp only [Config.standard]
  · rw [show 0x050 + 5 * g.val + j.val - 0x050 = 5 * g.val + j.val by omega, fontByte_glyph]
  · omega
  · omega

theorem byteAtReset_standard_bigFont (g : Fin 16) (j : Fin 10) :
    (Config.standard .schip).byteAtReset (0x0A0 + 10 * g.val + j.val) = defaultBigFont[g][j] := by
  rw [byteAtReset_of_bigFont] <;> simp only [Config.standard]
  · rw [show 0x0A0 + 10 * g.val + j.val - 0x0A0 = 10 * g.val + j.val by omega, fontByte_glyph]
  · exact ⟨trivial, by omega, by omega⟩

/-- Settles O60: the default tables stand at `0x050` to `0x09F` and `0x0A0` to `0x13F`, the second in SCHIP alone. -/
theorem fontsAreInMemoryAtReset : Obligations.FontsAreInMemoryAtReset := by
  refine ⟨byteAtReset_standard_font, byteAtReset_standard_bigFont, fun a outside v => ?_, fun a above => ?_⟩
  · apply byteAtReset_of_no_font <;> simp only [Config.standard] <;> omega
  · apply byteAtReset_of_no_font
    · simp [Config.standard]
    · simp only [Config.standard]
      omega

end Sys2Proof
end

section
/-! PROOFS of the family 20_memory.md. The word a fetch reads, the bytes `StoreMemory` leaves for the next load and the next
fetch, and the accesses through `I` that leave memory. -/

namespace Sys2Proof.Machine

/-! ### The fetched word (R41) -/

theorem toNat_fetchWord (s : State) (a : Nat) :
    (s.fetchWord a).toNat = 256 * (s.readByte a).toNat + (s.readByte (a + 1)).toNat :=
  wordOfBytes_toNat _ _

/-- Settles O8. -/
theorem fetchIsBigEndian : Obligations.FetchIsBigEndian := toNat_fetchWord

/-! ### What `StoreMemory` leaves in memory (R43, R97) -/

/-- The bytes of `V0..=Vx` from `a` exist when the last of them does. -/
theorem inMemory_registerCount {a : Nat} {x : Reg} (h : a + x.val < 4096) : inMemory a (registerCount x) = true :=
  (inMemory_iff _ _).2 (.inr h)

/-- The registers stored from `a` read back as they were. -/
theorem readByte_writeBytes_registersUpTo {s : State} {x r : Reg} {a : Nat} (hw : Memory.wf s.cfg s.mem)
    (ha : a + x.val < 4096) (hr : r ≤ x) : (s.writeBytes a (s.registersUpTo x)).readByte (a + r.val) = s.reg r := by
  have length := length_registersUpTo s x
  have inside : r.val < (s.registersUpTo x).length := by
    rw [length]
    exact Nat.lt_succ_of_le hr
  rw [readByte_writeBytes_inside s a r.val _ hw (length ▸ ha) inside, getElem_registersUpTo s x r.val inside r.isLt]

/-- Settles O37: the load reads at the unchanged `I` the bytes the store left there. -/
theorem loadAfterStoreRestoresRegisters : Obligations.LoadAfterStoreRestoresRegisters := by
  intro s x v hw hx
  have inside := inMemory_registerCount hx
  refine ⟨_, _, exec_storeMemory_inside x inside, exec_loadMemory_inside x inside, fun r hr => ?_⟩
  rw [reg_loadRegisters, if_pos hr]
  exact readByte_writeBytes_registersUpTo hw hx hr

/-- Settles O40: the two bytes the fetch reads are the two registers stored there. -/
theorem storedWordIsFetched : Obligations.StoredWordIsFetched := by
  intro s x r q hw hx next hq
  have hr : r ≤ x := (Fin.le_def.2 (by omega) : r ≤ q).trans hq
  refine ⟨_, exec_storeMemory_inside x (inMemory_registerCount hx), ?_⟩
  rw [toNat_fetchWord, Nat.add_assoc, ← next, readByte_writeBytes_registersUpTo hw hx hr,
    readByte_writeBytes_registersUpTo hw hx hq]

/-! ### Accesses through `I` that leave memory (R44, R110) -/

/-- An access does not fit when its last byte does not exist. -/
theorem not_inMemory {a count : Nat} (pos : 0 < count) (h : 4096 ≤ a + count - 1) : ¬inMemory a count = true := by
  rw [inMemory_iff]
  simp only [memSize]
  omega

/-- A sprite of `n` rows takes `n` bytes; for `n = 0` it takes the 32 of SCHIP hi-res, and none elsewhere (R108, R109). -/
theorem bytes_geometry (v : Variant) (hires : Bool) (n : Nibble) (cx cy : Byte) :
    (geometry v hires n cx cy).bytes =
      if n ≠ 0 then n.toNat else if v = .schip ∧ hires = true then 32 else 0 := by
  by_cases hn : n = 0
  · subst hn
    cases v <;> cases hires <;> rfl
  · rw [if_pos hn, ← Nat.mul_one n.toNat]
    cases v
    · rfl
    · cases hires
      · rfl
      · rw [geometry, if_pos rfl, if_neg hn, Geometry.bytes]

/-- The error of an access that leaves memory is fatal, and its record holds the word of the instruction and its address. -/
theorem halts_of_raises_data {i : Instr} {s : State} {word : Word} (h : exec i s = .next (s.raiseIn (.outOfMemory .data) i))
    (hw : word = encode i) :
    ∃ t, exec i s = .next t ∧ t.halted = true ∧ AfterError ⟨.outOfMemory .data, some word, s.pc - 2⟩ s t := by
  subst hw
  exact ⟨_, h, Bool.or_true _, afterError_raiseIn _ i s⟩

/-- Settles O38: in each case the check finds that the last byte of the access does not exist. -/
theorem dataAccessPastMemoryHalts : Obligations.DataAccessPastMemoryHalts := by
  intro s x y n
  refine ⟨fun h => ?_, fun h => ?_, fun count hc pos h => ?_⟩
  · exact halts_of_raises_data (exec_decimalConversion_outside x (not_inMemory (by decide) h)) (xnn_eq_encodeXNN _ x _)
  · have outside : ¬inMemory s.index.toNat (registerCount x) = true := not_inMemory (Nat.succ_pos _) h
    exact ⟨halts_of_raises_data (exec_storeMemory_outside x outside) (xnn_eq_encodeXNN _ x _),
      halts_of_raises_data (exec_loadMemory_outside x outside) (xnn_eq_encodeXNN _ x _)⟩
  · have bytes : (s.geometryOf x y n).bytes = count := (bytes_geometry _ _ n _ _).trans hc.symm
    exact halts_of_raises_data (exec_draw_outside x y n (bytes ▸ not_inMemory pos h)) (xy_eq_encodeXY _ n x y)

end Sys2Proof.Machine
end

section
/-! PROOFS of the family 30_encoding.md. The decoder and the encoder are inverse to each other: the decoder reads the group of a
word and, in four groups, the fields that select the row; the row's instruction is encoded from the same fields. -/

namespace Sys2Proof

/-! ### The decoder undoes the encoder (R52, R53) -/

theorem decode_eq_ok_iff {op : Word} {i : Instr} : decode op = .ok i ↔ decodeRow op = some i := by
  unfold decode
  cases decodeRow op <;> simp

theorem decodeRow_encode (i : Instr) : decodeRow (encode i) = some i := by
  cases i with
  | clearScreen | ret | scrollRight | scrollLeft | exit | lores | hires => rfl
  | scrollDown n => revert n; decide
  | jump | call | setIndex | jumpOffset => simp [encode, decodeRow]
  | skipEqImm | skipNeImm | setImm | addImm | random => simp [encode, decodeRow]
  | skipEqReg | skipNeReg | draw => simp [encode, decodeRow]
  | set | or | and | xor | add | sub | rightShift | subReverse | leftShift => simp [encode, decodeRow, decodeGroup8]
  | skipIfKey | skipIfNotKey => simp [encode, decodeRow, decodeGroupE]
  | getDelay | getKey | setDelay | setSound | addIndex | setIndexFont | setIndexBigFont | decimalConversion | storeMemory
  | loadMemory | saveFlags | loadFlags => simp [encode, decodeRow, decodeGroupF]

theorem decode_encode (i : Instr) : decode (encode i) = .ok i := decode_eq_ok_iff.2 (decodeRow_encode i)

theorem decodeBytes_encodeBytes_append (i : Instr) (rest : List Byte) :
    decodeBytes (encodeBytes i ++ rest) = .ok (i, rest) := by
  simp [encodeBytes, decodeBytes, decode_encode]

/-- Settles O1. -/
theorem decodeOfEncodeIsTheInstruction : Obligations.DecodeOfEncodeIsTheInstruction :=
  fun i rest => ⟨decode_encode i, decodeBytes_encodeBytes_append i rest⟩

/-! ### The rows a group selects by its fields -/

section
variable {op : Word} {i : Instr} {x y : Reg}

/-- A word from its upper twelve bits and its field `n`. -/
theorem extractLsb'_append_fieldN (op : Word) : op.extractLsb' 4 12 ++ fieldN op = op := by
  unfold fieldN
  ext k hk; simp; grind

theorem encode_of_decodeGroup0 (h : decodeGroup0 op = some i) : encode i = op := by
  unfold decodeGroup0 at h
  iterate 7 (rcases ite_eq_iff.1 h with ⟨rfl, ⟨⟩⟩ | ⟨-, h⟩; · rfl)
  rcases ite_eq_iff.1 h with ⟨hC, ⟨⟩⟩ | ⟨-, ⟨⟩⟩
  rw [encode, ← hC, extractLsb'_append_fieldN]

theorem encode_of_decodeGroup8 {n : Nibble} (h : decodeGroup8 x y n = some i) : encode i = encodeXY 0x8#4 x y n := by
  unfold decodeGroup8 at h
  iterate 9 (rcases ite_eq_iff.1 h with ⟨rfl, ⟨⟩⟩ | ⟨-, h⟩; · rfl)
  cases h

theorem encode_of_decodeGroupE {nn : Byte} (h : decodeGroupE x nn = some i) : encode i = encodeXNN 0xE#4 x nn := by
  unfold decodeGroupE at h
  iterate 2 (rcases ite_eq_iff.1 h with ⟨rfl, ⟨⟩⟩ | ⟨-, h⟩; · rfl)
  cases h

theorem encode_of_decodeGroupF {nn : Byte} (h : decodeGroupF x nn = some i) : encode i = encodeXNN 0xF#4 x nn := by
  unfold decodeGroupF at h
  iterate 12 (rcases ite_eq_iff.1 h with ⟨rfl, ⟨⟩⟩ | ⟨-, h⟩; · rfl)
  cases h

end

/-! ### The encoder undoes the decoder (R52, R53) -/

section
variable {op : Word} {g n : Nibble} {i : Instr}

theorem encodeXY_of_fields (hg : fieldGroup op = g) (hn : fieldN op = n) : encodeXY g (fieldX op) (fieldY op) n = op := by
  rw [← hg, ← hn, encodeXY_fields]

theorem encodeXNN_of_group (hg : fieldGroup op = g) : encodeXNN g (fieldX op) (fieldNN op) = op := by
  rw [← hg, encodeXNN_fields]

theorem encodeNNN_of_group (hg : fieldGroup op = g) : encodeNNN g (fieldNNN op) = op := by
  rw [← hg, encodeNNN_fields]

end

/-- How the group of `op` leads to its row, if any. -/
inductive RowOf (op : Word) : Option Instr → Prop
  | group0 (group : fieldGroup op = 0x0#4) : RowOf op (decodeGroup0 op)
  | group8 (group : fieldGroup op = 0x8#4) : RowOf op (decodeGroup8 (fieldX op) (fieldY op) (fieldN op))
  | groupE (group : fieldGroup op = 0xE#4) : RowOf op (decodeGroupE (fieldX op) (fieldNN op))
  | groupF (group : fieldGroup op = 0xF#4) : RowOf op (decodeGroupF (fieldX op) (fieldNN op))
  | nonzeroN (group : fieldGroup op = 0x5#4 ∨ fieldGroup op = 0x9#4) (n : fieldN op ≠ 0x0#4) : RowOf op none
  | found {i : Instr} (word : encode i = op) : RowOf op (some i)

/-- Groups `5` and `9` have one row each, with `n = 0`. -/
theorem RowOf.ite_fieldN {op : Word} {i : Instr} (group : fieldGroup op = 0x5#4 ∨ fieldGroup op = 0x9#4)
    (word : fieldN op = 0x0#4 → encode i = op) : RowOf op (if fieldN op = 0x0#4 then some i else none) :=
  iteInduction (fun hn => .found (word hn)) (.nonzeroN group)

/-- The decoder asks for every group but the last. -/
theorem eq_F_of_notMem {g : Nibble}
    (h : g ∉ [0x0#4, 0x1#4, 0x2#4, 0x3#4, 0x4#4, 0x5#4, 0x6#4, 0x7#4, 0x8#4, 0x9#4, 0xA#4, 0xB#4, 0xC#4, 0xD#4, 0xE#4]) :
    g = 0xF#4 := by
  revert g; decide

theorem rowOf_decodeRow (op : Word) : RowOf op (decodeRow op) := by
  unfold decodeRow
  refine iteInduction .group0 fun h0 => ?_
  refine iteInduction (fun h => .found (encodeNNN_of_group h)) fun h1 => ?_
  refine iteInduction (fun h => .found (encodeNNN_of_group h)) fun h2 => ?_
  refine iteInduction (fun h => .found (encodeXNN_of_group h)) fun h3 => ?_
  refine iteInduction (fun h => .found (encodeXNN_of_group h)) fun h4 => ?_
  refine iteInduction (fun h => .ite_fieldN (.inl h) (encodeXY_of_fields h)) fun h5 => ?_
  refine iteInduction (fun h => .found (encodeXNN_of_group h)) fun h6 => ?_
  refine iteInduction (fun h => .found (encodeXNN_of_group h)) fun h7 => ?_
  refine iteInduction .group8 fun h8 => ?_
  refine iteInduction (fun h => .ite_fieldN (.inr h) (encodeXY_of_fields h)) fun h9 => ?_
  refine iteInduction (fun h => .found (encodeNNN_of_group h)) fun hA => ?_
  refine iteInduction (fun h => .found (encodeNNN_of_group h)) fun hB => ?_
  refine iteInduction (fun h => .found (encodeXNN_of_group h)) fun hC => ?_
  refine iteInduction (fun h => .found (encodeXY_of_fields h rfl)) fun hD => ?_
  refine iteInduction .groupE fun hE => ?_
  exact .groupF (eq_F_of_notMem (by simp [*]))

theorem encode_of_decodeRow {op : Word} {i : Instr} (h : decodeRow op = some i) : encode i = op := by
  have row := rowOf_decodeRow op
  generalize decodeRow op = o at row h
  cases row with
  | group0 => exact encode_of_decodeGroup0 h
  | group8 hg => exact (encode_of_decodeGroup8 h).trans (encodeXY_of_fields hg rfl)
  | groupE hg => exact (encode_of_decodeGroupE h).trans (encodeXNN_of_group hg)
  | groupF hg => exact (encode_of_decodeGroupF h).trans (encodeXNN_of_group hg)
  | nonzeroN => cases h
  | found word => cases h; exact word

/-- Settles O2. -/
theorem encodeOfDecodeIsTheWord : Obligations.EncodeOfDecodeIsTheWord :=
  fun _ _ h => encode_of_decodeRow (decode_eq_ok_iff.1 h)

end Sys2Proof
end

section
/-! PROOFS of the family 30_encoding.md. The words of no row (R55), in the fields the decoder reads and as the spec lists them. -/

namespace Sys2Proof

/-! ### The fields that select no row -/

theorem decode_eq_unknownOpcode_iff {op : Word} : decode op = .error (.unknownOpcode op) ↔ decodeRow op = none := by
  unfold decode
  cases decodeRow op <;> simp

/-- One row of a group's table. -/
theorem row_eq_none_iff {p : Prop} [Decidable p] {i : Instr} {o : Option Instr} :
    (if p then some i else o) = none ↔ ¬p ∧ o = none := by
  simp [ite_eq_iff]

theorem extractLsb'_eq_00C_iff (op : Word) : op.extractLsb' 4 12 = 0x00C#12 ↔ 0x00C0#16 ≤ op ∧ op ≤ 0x00CF#16 := by
  rw [← BitVec.toNat_inj, BitVec.extractLsb'_toNat, BitVec.le_def, BitVec.le_def, Nat.shiftRight_eq_div_pow]
  simp only [BitVec.toNat_ofNat]
  omega

theorem decodeGroup0_eq_none_iff (op : Word) :
    decodeGroup0 op = none ↔ op ≠ 0x00E0#16 ∧ op ≠ 0x00EE#16 ∧ ¬(0x00C0#16 ≤ op ∧ op ≤ 0x00CF#16) ∧
      ¬(0x00FB#16 ≤ op ∧ op ≤ 0x00FF#16) := by
  simp only [decodeGroup0, row_eq_none_iff, extractLsb'_eq_00C_iff, and_true]
  bv_omega

theorem decodeGroup8_eq_none_iff (x y : Reg) (n : Nibble) :
    decodeGroup8 x y n = none ↔ n ∈ [0x8#4, 0x9#4, 0xA#4, 0xB#4, 0xC#4, 0xD#4, 0xF#4] := by
  simp only [decodeGroup8, row_eq_none_iff, and_true]
  revert n; decide

theorem decodeGroupE_eq_none_iff (x : Reg) (nn : Byte) : decodeGroupE x nn = none ↔ nn ∉ [0x9E#8, 0xA1#8] := by
  simp [decodeGroupE, row_eq_none_iff]

theorem decodeGroupF_eq_none_iff (x : Reg) (nn : Byte) :
    decodeGroupF x nn = none ↔ nn ∉ [0x07#8, 0x0A#8, 0x15#8, 0x18#8, 0x1E#8, 0x29#8, 0x30#8, 0x33#8, 0x55#8, 0x65#8,
      0x75#8, 0x85#8] := by
  simp [decodeGroupF, row_eq_none_iff]

/-- The words of no row, by their fields. -/
theorem decodeRow_eq_none_iff (op : Word) :
    decodeRow op = none ↔
      (fieldGroup op = 0x0#4 ∧ decodeGroup0 op = none) ∨
      ((fieldGroup op = 0x5#4 ∨ fieldGroup op = 0x9#4) ∧ fieldN op ≠ 0x0#4) ∨
      (fieldGroup op = 0x8#4 ∧ decodeGroup8 (fieldX op) (fieldY op) (fieldN op) = none) ∨
      (fieldGroup op = 0xE#4 ∧ decodeGroupE (fieldX op) (fieldNN op) = none) ∨
      (fieldGroup op = 0xF#4 ∧ decodeGroupF (fieldX op) (fieldNN op) = none) := by
  constructor
  · intro h
    have row := rowOf_decodeRow op
    generalize decodeRow op = o at row h
    cases row with
    | group0 hg => exact .inl ⟨hg, h⟩
    | nonzeroN hg hn => exact .inr (.inl ⟨hg, hn⟩)
    | group8 hg => exact .inr (.inr (.inl ⟨hg, h⟩))
    | groupE hg => exact .inr (.inr (.inr (.inl ⟨hg, h⟩)))
    | groupF hg => exact .inr (.inr (.inr (.inr ⟨hg, h⟩)))
    | found => cases h
  · rintro (⟨hg, h⟩ | ⟨hg | hg, h⟩ | ⟨hg, h⟩ | ⟨hg, h⟩ | ⟨hg, h⟩) <;> simp [decodeRow, hg, h]

/-! ### The fields as the spec's list reads them (R50, R55) -/

theorem setWidth_injective {w : Nat} (hw : w ≤ 16) : Function.Injective (BitVec.setWidth 16 : BitVec w → Word) :=
  fun a b h => by simpa [BitVec.setWidth_setWidth_of_le _ hw] using congrArg (BitVec.setWidth w) h

section
variable (op : Word)

theorem fieldGroup_eq_zero_iff : fieldGroup op = 0x0#4 ↔ op < 0x1000#16 := by
  rw [fieldGroup, ← BitVec.toNat_inj, BitVec.extractLsb'_toNat, BitVec.lt_def, Nat.shiftRight_eq_div_pow]
  simp only [BitVec.toNat_ofNat]
  omega

theorem fieldGroup_eq_iff (g : Nibble) : fieldGroup op = g ↔ op >>> 12 = g.setWidth 16 := by
  have field : op >>> 12 = (fieldGroup op).setWidth 16 := by
    unfold fieldGroup
    ext k hk; simp; grind
  rw [field, (setWidth_injective (by decide)).eq_iff]

theorem setWidth_extractLsb'_zero {k : Nat} (hk : k ≤ 16) :
    (op.extractLsb' 0 k).setWidth 16 = op &&& BitVec.ofNat 16 (2 ^ k - 1) := by
  have small : 2 ^ k - 1 < 2 ^ 16 := by
    have := Nat.pow_le_pow_right (n := 2) (by decide) hk
    omega
  apply BitVec.eq_of_toNat_eq
  rw [BitVec.toNat_and, BitVec.toNat_ofNat, Nat.mod_eq_of_lt small, Nat.and_two_pow_sub_one_eq_mod,
    BitVec.toNat_setWidth_of_le hk, BitVec.extractLsb'_toNat, Nat.shiftRight_zero]

theorem extractLsb'_zero_mem_iff {k : Nat} (hk : k ≤ 16) (l : List (BitVec k)) :
    op.extractLsb' 0 k ∈ l ↔ op &&& BitVec.ofNat 16 (2 ^ k - 1) ∈ l.map (BitVec.setWidth 16) := by
  rw [← setWidth_extractLsb'_zero op hk, List.mem_map_of_injective (setWidth_injective hk)]

theorem fieldN_mem_iff (l : List Nibble) : fieldN op ∈ l ↔ op &&& 0xF#16 ∈ l.map (BitVec.setWidth 16) :=
  extractLsb'_zero_mem_iff op (by decide) l

theorem fieldNN_mem_iff (l : List Byte) : fieldNN op ∈ l ↔ op &&& 0xFF#16 ∈ l.map (BitVec.setWidth 16) :=
  extractLsb'_zero_mem_iff op (by decide) l

theorem fieldN_eq_zero_iff : fieldN op = 0x0#4 ↔ op &&& 0xF#16 = 0 := by
  simpa using fieldN_mem_iff op [0x0#4]

end

/-- Settles O3: the five items of the list are the five ways to have no row. -/
theorem unknownOpcodesAreTheListedWords : Obligations.UnknownOpcodesAreTheListedWords := by
  intro op
  have group := fieldGroup_eq_iff op
  refine decode_eq_unknownOpcode_iff.trans ((decodeRow_eq_none_iff op).trans ?_)
  refine or_congr (and_congr (fieldGroup_eq_zero_iff op) (decodeGroup0_eq_none_iff op)) ?_
  refine or_congr (and_congr (or_congr (group 0x5#4) (group 0x9#4)) (not_congr (fieldN_eq_zero_iff op))) ?_
  refine or_congr (and_congr (group 0x8#4) ?group8) (or_congr (and_congr (group 0xE#4) ?groupE)
    (and_congr (group 0xF#4) ?groupF))
  case group8 => exact (decodeGroup8_eq_none_iff _ _ _).trans (fieldN_mem_iff op _)
  case groupE => exact (decodeGroupE_eq_none_iff _ _).trans (not_congr (fieldNN_mem_iff op _))
  case groupF => exact (decodeGroupF_eq_none_iff _ _).trans (not_congr (fieldNN_mem_iff op _))

end Sys2Proof
end

section
/-! PROOFS of the family 30_encoding.md. The words of the spec's vectors, and the two errors of decoding. -/

namespace Sys2Proof.Machine

/-- Settles O4: the words with a row are those of their instructions, and the others are on the list of R55. -/
theorem wordsOfTheTableDecode : Obligations.WordsOfTheTableDecode := by
  have unknown := fun op => (unknownOpcodesAreTheListedWords op).2
  exact ⟨decode_encode .clearScreen, decode_encode .ret, decode_encode (.scrollDown 5), decode_encode (.scrollDown 0),
    decode_encode (.jumpOffset 0x123#12), decode_encode (.add 1 2), decode_encode (.draw 1 2 0),
    decode_encode (.setIndexBigFont 5), unknown _ (by decide), unknown _ (by decide), unknown _ (by decide),
    unknown _ (by decide), unknown _ (by decide), unknown _ (by decide), unknown _ (by decide), unknown _ (by decide),
    unknown _ (by decide), unknown _ (by decide)⟩

/-- A step that has ended its tick already is closed. -/
theorem closeStep_of_ended {s : State} (h : s.stepsLeft = 0) : closeStep s = s := by
  have ended : s = { s with stepsLeft := 0 } := by rw [← h]
  rw [ended]
  simp [closeStep]

/-- Settles O7: the error is taken after the advance, and closing the step finds the tick ended. -/
theorem unknownOpcodeIsRecoverable : Obligations.UnknownOpcodeIsRecoverable := by
  rintro s ⟨hh, hr, hs⟩ hpc hd
  have runs := step_of_runs hh ((exited_eq_false_iff s).2 hr) hs
  rw [fetchAndExecute_of_error (s := openTick s) hpc hd, thenDo_next, closeStep_of_ended rfl] at runs
  exact ⟨_, runs, rfl, by simp [hh, ErrorKind.fatal]⟩

/-- Settles O50: the variant gate is the only source of the error. -/
theorem variantMismatchExactlyForSchipOnly : Obligations.VariantMismatchExactlyForSchipOnly := by
  intro i s
  rcases exec_cases i s with ⟨k, h, notUnknown, -, gate⟩ | ⟨valid, t, h, quiet⟩
  · refine ⟨fun invalid => ?_, fun valid => ?_⟩
    · obtain rfl := gate.2 invalid
      exact ⟨_, h, afterError_raiseIn _ i s, Bool.or_false _⟩
    · have notGate : k ≠ .variantMismatch := fun hk => by simp [gate.1 hk] at valid
      exact ⟨_, h, .inr ⟨_, rfl, notGate, notUnknown⟩⟩
  · obtain ⟨lastError, -⟩ := quiet
    exact ⟨fun invalid => by simp [valid] at invalid, fun _ => ⟨t, h, .inl lastError⟩⟩

end Sys2Proof.Machine
end

section
/-! PROOFS of the family 40_execution_cycle.md. One step of a machine that may run: it runs the instruction at `pc` inside the
tick it has opened, moves a timer only as that instruction says, and leaves the tick ended or one step shorter. -/

namespace Sys2Proof.Machine

/-! ### One step of a machine that may run -/

theorem exited_eq_true_iff (s : State) : s.exited = true ↔ s.cfg.variant = .schip ∧ s.running = false := by
  simp [State.exited]

theorem CanRun.not_exited {s : State} (h : CanRun s) : s.exited = false := by
  obtain ⟨-, running, -⟩ := h
  exact (exited_eq_false_iff s).2 running

theorem CanRun.step_eq {s : State} (h : CanRun s) : step s = thenDo (fetchAndExecute (openTick s)) closeStep := by
  have exited := h.not_exited
  obtain ⟨notHalted, -, speed⟩ := h
  exact step_of_runs notHalted exited speed

theorem CanRun.step_next {s t : State} (h : CanRun s) (ht : fetchAndExecute (openTick s) = .next t) :
    step s = .next (closeStep t) := by
  rw [h.step_eq, ht, thenDo_next]

/-- The two bytes at `pc` exist and decode to `i`. -/
abbrev Fetches (s : State) (i : Instr) : Prop :=
  s.pc.toNat + 1 < 4096 ∧ decode (s.fetchWord s.pc.toNat) = .ok i

theorem Fetches.fetchAndExecute_eq {s : State} {i : Instr} (h : Fetches s i) :
    fetchAndExecute s = exec i s.advance := by
  obtain ⟨inside, decoded⟩ := h
  exact fetchAndExecute_of_ok inside decoded

/-- Opening a tick changes neither `pc` nor the bytes there. -/
theorem Fetches.in_openTick {s : State} {i : Instr} (h : Fetches s i) : Fetches (openTick s) i := by
  rwa [Fetches, fetchWord_openTick]

/-! ### The end of a step (R65) -/

theorem closeStep_of_exited {s : State} (h : s.stepsLeft ≠ 0) (exited : s.exited = true) :
    closeStep s = { s with stepsLeft := 0, result := some .ok } := by
  simp [closeStep, h, exited]

theorem closeStep_of_last {s : State} (h : s.stepsLeft = 1) :
    closeStep s = { s with stepsLeft := 0, result := some .ok } := by
  simp [closeStep, h]

theorem closeStep_of_more {s : State} {n : Nat} (h : s.stepsLeft = n + 2) (notExited : s.exited = false) :
    closeStep s = { s with stepsLeft := n + 1 } := by
  simp [closeStep, h, notExited]

theorem closeStep_of_open {s : State} (h : s.stepsLeft ≠ 0) (notExited : s.exited = false) :
    closeStep s = { s with
      stepsLeft := s.stepsLeft - 1
      result := if s.stepsLeft = 1 then some .ok else s.result } := by
  simp [closeStep, h, notExited]

/-- Settles O5: the step is the fetch and the execution between the opening and the closing, which has three cases. -/
theorem stepRunsTheDecodedInstruction : Obligations.StepRunsTheDecodedInstruction := by
  intro s i runs inside decoded
  have fetched : Fetches s i := ⟨inside, decoded⟩
  have executed : fetchAndExecute (openTick s) = exec i { openTick s with pc := s.pc + 2 } :=
    fetched.in_openTick.fetchAndExecute_eq
  refine ⟨executed ▸ runs.step_eq, rfl, openTick_of_open, fun u hu => ?_⟩
  refine ⟨_, runs.step_next (executed.trans hu), rfl, ?_, ?_, ?_⟩
  · intro ended
    rw [closeStep_of_ended ended]
    exact ⟨ended, rfl⟩
  · intro isOpen exited
    rw [closeStep_of_exited isOpen ((exited_eq_true_iff u).2 exited)]
    exact ⟨rfl, rfl⟩
  · intro isOpen notExited
    rw [closeStep_of_open isOpen (Bool.eq_false_iff.2 (mt (exited_eq_true_iff u).1 notExited))]
    exact ⟨rfl, rfl⟩

/-- Settles O6: the error is taken before the advance, and closing the step finds the tick ended. -/
theorem fetchPastMemoryHalts : Obligations.FetchPastMemoryHalts := by
  intro s runs outside
  have next := runs.step_next (fetchAndExecute_of_fails (s := openTick s) outside)
  rw [closeStep_of_ended rfl] at next
  exact ⟨_, next, rfl, rfl, Bool.or_true _⟩

/-- Settles O10. -/
theorem exitedTickChangesNothing : Obligations.ExitedTickChangesNothing :=
  fun s notHalted schip stopped => step_of_exited notHalted ((exited_eq_true_iff s).2 ⟨schip, stopped⟩)

/-! ### The timers (R63) -/

/-- An error raised in place of an instruction leaves the timers, and so does every instruction but its own timer's. -/
theorem fetchAndExecute_timers {s t : State} (h : fetchAndExecute s = .next t) :
    (t.dt = s.dt ∨ ∃ x, Fetches s (.setDelay x)) ∧ (t.st = s.st ∨ ∃ x, Fetches s (.setSound x)) := by
  rcases fetchAndExecute_cases s with ⟨-, he⟩ | ⟨inside, i, decoded, he⟩ | ⟨-, -, -, he⟩
  · cases he.symm.trans h
    exact ⟨.inl rfl, .inl rfl⟩
  · have effect := effect_of_exec (he.symm.trans h)
    refine ⟨effect.dt_eq.imp_right ?_, effect.st_eq.imp_right ?_⟩ <;>
    · rintro ⟨x, rfl⟩
      exact ⟨x, inside, decoded⟩
  · cases he.symm.trans h
    exact ⟨.inl rfl, .inl rfl⟩

theorem satDec_eq (b : Byte) : satDec b = if b ≠ 0 then b - 1 else b := by
  unfold satDec
  split <;> simp_all

/-- Opening a tick decrements the timers, and opening none leaves them. -/
theorem openTick_timers (s : State) :
    (openTick s).dt = (if s.stepsLeft = 0 ∧ s.dt ≠ 0 then s.dt - 1 else s.dt) ∧
    (openTick s).st = (if s.stepsLeft = 0 ∧ s.st ≠ 0 then s.st - 1 else s.st) := by
  by_cases h : s.stepsLeft = 0
  · simp [openTick_of_start h, satDec_eq, h]
  · simp [openTick_of_open h, h]

/-- Settles O12: the opening of the tick and the one instruction after it are all that can move a timer. -/
theorem timersMoveOnlyAtTickStart : Obligations.TimersMoveOnlyAtTickStart := by
  intro s runs
  obtain ⟨t, ht⟩ := fetchAndExecute_next (openTick s)
  obtain ⟨delay, sound⟩ := fetchAndExecute_timers ht
  obtain ⟨openedDelay, openedSound⟩ := openTick_timers s
  have executed : ∀ {i}, Fetches s i → exec i (openTick s).advance = .next t :=
    fun fetched => fetched.in_openTick.fetchAndExecute_eq.symm.trans ht
  refine ⟨_, runs.step_next ht, fun x fetched => ?_, fun none => ?_, fun x fetched => ?_, fun none => ?_⟩
  · cases executed fetched
    rfl
  · exact (delay.resolve_right none).trans openedDelay
  · cases executed fetched
    rfl
  · exact (sound.resolve_right none).trans openedSound

end Sys2Proof.Machine
end

section
/-! PROOFS of the family 40_execution_cycle.md. The bounds of a tick, and what the steps of a tick do together, by induction over
the steps that are left once the tick is open. -/

namespace Sys2Proof.Machine

/-! ### The bounds of a tick (R64) -/

theorem stepCap_le_iff {c : Config} (h : 0 < c.speed) (k : Nat) : stepCap c ≤ k ↔ c.speed / 60 ≤ k := by
  have den : 0 < c.speed.den := c.speed.pos
  have num : (c.speed.num.toNat : ℚ) = c.speed * c.speed.den := by
    rw [Rat.mul_den_eq_num, ← Int.cast_natCast, Int.toNat_of_nonneg (Rat.num_nonneg.2 h.le)]
  calc stepCap c ≤ k
      ↔ c.speed.num.toNat ≤ timerHz * c.speed.den * k := ceilDiv_le_iff_le_mul (Nat.mul_pos (by decide) den)
    _ ↔ c.speed * c.speed.den ≤ k * 60 * c.speed.den := by
      rw [← num]
      norm_cast
      rw [Nat.mul_comm _ k, Nat.mul_assoc]
    _ ↔ c.speed / 60 ≤ k := by
      rw [mul_le_mul_iff_left₀ (by exact_mod_cast den), div_le_iff₀ (by norm_num)]

theorem stepCap_eq_ceil {c : Config} (h : 0 < c.speed) : (stepCap c : Int) = ⌈c.speed / 60⌉ := by
  have natural : stepCap c = ⌈c.speed / 60⌉₊ :=
    eq_of_forall_ge_iff fun k => (stepCap_le_iff h k).trans Nat.ceil_le.symm
  rw [natural, Int.natCast_ceil_eq_ceil (by positivity)]

theorem tickSteps_of_unthrottled {c : Config} {k : Nat} (ht : ¬c.throttled = true) : tickSteps c k = max 1 k := by
  rw [tickSteps, if_neg ht]

theorem tickSteps_of_throttled {c : Config} {k : Nat} (ht : c.throttled = true) :
    tickSteps c k = max 1 (min k (stepCap c)) := by
  rw [tickSteps, if_pos ht]

theorem tickSteps_of_within {c : Config} {k : Nat} (pos : 1 ≤ k) (cap : c.throttled = true → k ≤ stepCap c) :
    tickSteps c k = k := by
  by_cases ht : c.throttled = true
  · rw [tickSteps_of_throttled ht, Nat.min_eq_left (cap ht), Nat.max_eq_right pos]
  · rw [tickSteps_of_unthrottled ht, Nat.max_eq_right pos]

/-- Settles O13: the cap of the model is `ceil(SPEED / 60)`. -/
theorem tickStepCountIsWithinItsBounds : Obligations.TickStepCountIsWithinItsBounds := by
  intro c k speed
  rw [← stepCap_eq_ceil speed]
  refine ⟨tickSteps_pos c k, fun ht => ?_, fun pos cap => tickSteps_of_within pos fun ht => ?_⟩
  · exact_mod_cast tickSteps_le_stepCap k ht speed
  · exact_mod_cast cap ht

/-! ### A step inside its tick -/

/-- `t` belongs to the tick that is open in `s`: the configuration, the calls taken and the keys are the same (R32). -/
structure SameTick (s t : State) : Prop where
  cfg : t.cfg = s.cfg
  requests : t.requests = s.requests
  ticks : t.ticks = s.ticks
  keysDown : t.keysDown = s.keysDown
  keysReleased : t.keysReleased = s.keysReleased

theorem SameTick.trans {s t u : State} (h : SameTick s t) (h' : SameTick t u) : SameTick s u where
  cfg := h'.cfg.trans h.cfg
  requests := h'.requests.trans h.requests
  ticks := h'.ticks.trans h.ticks
  keysDown := h'.keysDown.trans h.keysDown
  keysReleased := h'.keysReleased.trans h.keysReleased

theorem SameTick.closeStep_right {s t : State} (h : SameTick s t) : SameTick s (closeStep t) := { h with }

/-- The tick of `s` has ended with the error that `s` records. -/
abbrev EndedByError (s : State) : Prop :=
  s.stepsLeft = 0 ∧ ∃ e, s.result = some (.error e) ∧ s.lastError = some e

/-- The tick of `s` has ended, with `ok` or with the error that `s` records (R65). -/
abbrev TickEnded (s : State) : Prop :=
  s.stepsLeft = 0 ∧ (s.result = some .ok ∨ ∃ e, s.result = some (.error e) ∧ s.lastError = some e)

theorem endedByError_raise (s : State) (e : ErrorRecord) : EndedByError (s.raise e) := ⟨rfl, e, rfl, rfl⟩

/-- Fetching and executing one instruction stay in the tick: they end it with an error or leave its count alone. -/
theorem fetchAndExecute_tick (s : State) :
    ∃ t, fetchAndExecute s = .next t ∧ SameTick s t ∧
      (EndedByError t ∨ (t.halted = s.halted ∧ t.stepsLeft = s.stepsLeft)) := by
  rcases fetchAndExecute_cases s with ⟨-, he⟩ | ⟨-, i, -, he⟩ | ⟨-, -, -, he⟩
  · exact ⟨_, he, ⟨rfl, rfl, rfl, rfl, rfl⟩, .inl (endedByError_raise _ _)⟩
  · rcases exec_cases i s.advance with ⟨k, hk, -⟩ | ⟨-, t, ht, -, halted, -, stepsLeft⟩
    · exact ⟨_, he.trans hk, ⟨rfl, rfl, rfl, rfl, rfl⟩, .inl (endedByError_raise _ _)⟩
    · obtain ⟨keysDown, keysReleased, cfg, requests, ticks⟩ := (effect_of_exec ht).inputs_eq
      exact ⟨t, he.trans ht, ⟨cfg, requests, ticks, keysDown, keysReleased⟩, .inr ⟨halted, stepsLeft⟩⟩
  · exact ⟨_, he, ⟨rfl, rfl, rfl, rfl, rfl⟩, .inl (endedByError_raise _ _)⟩

/-- The step may be followed by another of its tick: `t` may run, and one step less is left than in `s`. -/
abbrev TickGoesOn (s t : State) : Prop := CanRun t ∧ t.stepsLeft ≠ 0 ∧ t.stepsLeft + 1 = s.stepsLeft

/-- A machine that may run takes a step of its tick, which ends the tick or leaves it one step shorter. -/
theorem CanRun.step_tick {s : State} (h : CanRun s) :
    ∃ t, step s = .next t ∧ SameTick (openTick s) t ∧ (TickEnded t ∨ TickGoesOn (openTick s) t) := by
  obtain ⟨u, hu, same, ends⟩ := fetchAndExecute_tick (openTick s)
  refine ⟨_, h.step_next hu, same.closeStep_right, ?_⟩
  obtain ⟨notHalted, -, speed⟩ := h
  rcases ends with ⟨ended, error⟩ | ⟨halted, stepsLeft⟩
  · rw [closeStep_of_ended ended]
    exact .inl ⟨ended, .inr error⟩
  have isOpen := stepsLeft_openTick_pos s
  rcases exited : u.exited
  · rcases count : u.stepsLeft with _ | _ | n
    · omega
    · rw [closeStep_of_last count]
      exact .inl ⟨rfl, .inl rfl⟩
    · rw [closeStep_of_more count exited]
      refine .inr ⟨⟨halted.trans notHalted, (exited_eq_false_iff u).1 exited, ?_⟩, Nat.succ_ne_zero n, ?_⟩
      · exact same.cfg ▸ speed
      · exact count.symm.trans stepsLeft
  · rw [closeStep_of_exited (by omega) exited]
    exact .inl ⟨rfl, .inl rfl⟩

/-! ### A whole tick -/

/-- `j` steps from `s` lead to the end `t` of the tick that the first of them opens or finds open, and every state between
belongs to that tick and has it open. -/
structure RunsTickTo (s : State) (j : Nat) (t : State) : Prop where
  pos : 1 ≤ j
  bound : j ≤ (openTick s).stepsLeft
  run : Sys2Proof.core.run j s = .next t
  ended : TickEnded t
  same : SameTick (openTick s) t
  between : ∀ i, 1 ≤ i → i < j →
    ∃ u, Sys2Proof.core.run i s = .next u ∧ u.stepsLeft ≠ 0 ∧ SameTick (openTick s) u

theorem RunsTickTo.of_ended {s t : State} (hs : step s = .next t) (same : SameTick (openTick s) t) (ended : TickEnded t) :
    RunsTickTo s 1 t where
  pos := le_rfl
  bound := stepsLeft_openTick_pos s
  run := run_one hs
  ended := ended
  same := same
  between := by omega

theorem RunsTickTo.of_goes_on {s t v : State} {j : Nat} (hs : step s = .next t) (same : SameTick (openTick s) t)
    (goesOn : TickGoesOn (openTick s) t) (rest : RunsTickTo t j v) : RunsTickTo s (j + 1) v := by
  obtain ⟨-, isOpen, count⟩ := goesOn
  obtain ⟨pos, bound, run, ended, same', between⟩ := rest
  rw [openTick_of_open isOpen] at bound same' between
  refine ⟨by omega, by omega, (run_succ j hs).trans run, ended, same.trans same', fun i _ hij => ?_⟩
  rcases i with _ | _ | i
  · omega
  · exact ⟨t, run_one hs, isOpen, same⟩
  · obtain ⟨u, hu, uOpen, sameU⟩ := between (i + 1) (by omega) (by omega)
    exact ⟨u, (run_succ (i + 1) hs).trans hu, uOpen, same.trans sameU⟩

theorem CanRun.runsTickTo {s : State} (h : CanRun s) : ∃ j t, RunsTickTo s j t := by
  induction count : (openTick s).stepsLeft generalizing s with
  | zero => exact absurd (stepsLeft_openTick_pos s) (by omega)
  | succ n ih =>
    obtain ⟨t, hs, same, ended | goesOn⟩ := h.step_tick
    · exact ⟨1, t, .of_ended hs same ended⟩
    · obtain ⟨runs, isOpen, countT⟩ := goesOn
      have left : (openTick t).stepsLeft = n := by
        rw [openTick_of_open isOpen]
        omega
      obtain ⟨j, v, rest⟩ := ih runs left
      exact ⟨j + 1, v, .of_goes_on hs same ⟨runs, isOpen, countT⟩ rest⟩

/-- Settles O14: the tick that the first step opens has the count, the call and the keys of the next request. -/
theorem tickEndsWithinItsStepCount : Obligations.TickEndsWithinItsStepCount := by
  intro s runs start
  obtain ⟨j, t, pos, bound, run, ⟨ended, result⟩, same, between⟩ := runs.runsTickTo
  rw [openTick_of_start start] at bound same between
  refine ⟨j, t, pos, bound, run, ended, same.ticks, same.requests, result, fun i hi hij => ?_⟩
  obtain ⟨u, hu, isOpen, sameU⟩ := between i hi hij
  exact ⟨u, hu, Nat.pos_of_ne_zero isOpen, sameU.keysDown, sameU.keysReleased⟩

/-! ### What the host sees (R67) -/

theorem soundActive_eq_true_iff (s : State) : s.soundActive = true ↔ s.st ≠ 0 := by
  simp [State.soundActive]

theorem runningPort_eq_true_iff (s : State) : s.runningPort = true ↔ s.cfg.variant = .chip8 ∨ s.running = true := by
  simp [State.runningPort]

theorem stepsLeft_eq_zero_of_hostView {s : State} {view : HostView} (h : s.hostView = some view) : s.stepsLeft = 0 := by
  by_contra isOpen
  simp [hostView_inside isOpen] at h

/-- Settles O15: a tick is open in every state between its start and its end, and opening it again does nothing. -/
theorem hostSeesOnlyTickEnds : Obligations.HostSeesOnlyTickEnds := by
  refine ⟨fun s => hostView_inside, fun s between => ?_, fun s before runs seen => ?_⟩
  · exact ⟨_, hostView_between between, rfl, soundActive_eq_true_iff s, runningPort_eq_true_iff s, rfl, rfl⟩
  · obtain ⟨j, t, pos, -, run, ⟨ended, -⟩, same, between⟩ := runs.runsTickTo
    rw [openTick_of_start (stepsLeft_eq_zero_of_hostView seen)] at same between
    refine ⟨j, t, _, pos, run, hostView_between ended, same.ticks, fun i hi hij => ?_⟩
    obtain ⟨u, hu, isOpen, sameU⟩ := between i hi hij
    exact ⟨u, hu, hostView_inside isOpen, sameU.ticks, openTick_of_open isOpen⟩

/-! ### Waiting for a key (R68) -/

/-- Without a released key a `GetKey` undoes the fetch's advance, so that its step does nothing but open and close (R106). -/
theorem CanRun.step_waiting {s : State} {x : Reg} (h : CanRun s) (fetched : Fetches s (.getKey x))
    (noKey : lowestKey (openTick s).keysReleased = none) : step s = .next (closeStep (openTick s)) := by
  have rewound : (openTick s).advance.setPc ((openTick s).advance.pc - 2) = openTick s := by
    have back : (openTick s).advance.pc - 2 = s.pc := BitVec.add_sub_cancel s.pc 2
    rw [back]
    rfl
  have executed := fetched.in_openTick.fetchAndExecute_eq.trans (exec_getKey_none x noKey)
  rw [rewound] at executed
  exact h.step_next executed

/-- The steps of a tick that waits for a key only count it down. -/
theorem CanRun.run_waiting {s : State} {x : Reg} (h : CanRun s) (fetched : Fetches s (.getKey x))
    (noKey : lowestKey (openTick s).keysReleased = none) :
    Sys2Proof.core.run (openTick s).stepsLeft s = .next { openTick s with stepsLeft := 0, result := some .ok } := by
  induction count : (openTick s).stepsLeft generalizing s with
  | zero => exact absurd (stepsLeft_openTick_pos s) (by omega)
  | succ n ih =>
    have hs := h.step_waiting fetched noKey
    rcases n with _ | n
    · rw [closeStep_of_last count] at hs
      exact run_one hs
    · rw [closeStep_of_more count h.not_exited] at hs
      have opened : openTick { openTick s with stepsLeft := n + 1 } = { openTick s with stepsLeft := n + 1 } :=
        openTick_of_open (Nat.succ_ne_zero n)
      have rest := ih (s := { openTick s with stepsLeft := n + 1 }) h fetched (by rwa [opened]) (by rw [opened])
      rw [opened] at rest
      exact (run_succ (n + 1) hs).trans rest

/-- Settles O16: the whole tick is the decrement of the timers and the count of its steps. -/
theorem getKeyWaitsThroughTheTick : Obligations.GetKeyWaitsThroughTheTick := by
  intro s x runs start inside decoded noKey
  have opened := openTick_of_start start
  have waits := runs.run_waiting ⟨inside, decoded⟩ (by rw [opened]; exact lowestKey_eq_none noKey)
  rw [opened] at waits
  exact ⟨_, waits, rfl, rfl, rfl, rfl, rfl, rfl, rfl, fun _ => rfl⟩

end Sys2Proof.Machine
end

section
/-! PROOFS of the family 41_control_flow.md. The jumps and the skips differ from the state they execute in by `pc` alone; a
`Call` on a full stack and a `Return` on an empty one are fatal; `Exit` ends its tick. -/

namespace Sys2Proof.Machine

/-! ### Setting `pc` (R69, R72) -/

theorem onlyPc_setPc (s : State) (a : Word) : OnlyPc s (s.setPc a) := ⟨rfl, fun _ => rfl⟩

/-- The fetch fails from the last byte of memory on (R59). -/
theorem fetchFails_iff (s : State) : fetchFails s = true ↔ 4096 ≤ s.pc.toNat + 1 := decide_eq_true_iff

/-- Settles O23. -/
theorem jumpSetsPc : Obligations.JumpSetsPc := by
  refine fun s nnn => ⟨decode_encode (.jump nnn), _, rfl, onlyPc_setPc s _, toNat_addressOf nnn, ?_⟩
  rintro rfl
  rw [fetchFails_iff, setPc_pc, toNat_addressOf]
  decide

/-- The offset of a byte cannot wrap an address. -/
theorem toNat_addressOf_add (nnn : Addr12) (b : Byte) :
    (addressOf nnn + wordOfByte b).toNat = nnn.toNat + b.toNat := by
  rw [BitVec.toNat_add, toNat_addressOf, toNat_wordOfByte]
  omega

/-- Settles O27. -/
theorem jumpOffsetAddsV0 : Obligations.JumpOffsetAddsV0 :=
  fun s nnn => ⟨_, rfl, onlyPc_setPc s _, toNat_addressOf_add nnn _, toNat_addressOf_add_le nnn _⟩

/-! ### The skips (R74 to R77) -/

/-- A skip under the condition `p` changes `pc` alone, and that by 2 exactly when `p` holds. -/
theorem onlyPc_skip (s : State) (p : Prop) [Decidable p] :
    OnlyPc s (if p then s.skipNext else s) ∧
      (if p then s.skipNext else s).pc = if p then s.pc + 2 else s.pc := by
  split
  · exact ⟨onlyPc_setPc s _, rfl⟩
  · exact ⟨onlyPc_setPc s s.pc, rfl⟩

/-- A skip under the condition that `p` does not hold. -/
theorem onlyPc_skip_not (s : State) (p : Prop) [Decidable p] :
    OnlyPc s (if ¬p then s.skipNext else s) ∧
      (if ¬p then s.skipNext else s).pc = if p then s.pc else s.pc + 2 :=
  (onlyPc_skip s (¬p)).imp_right fun pc => pc.trans (ite_not ..)

/-- Settles O28: two skips are taken when their operands are equal, and two when they are not. -/
theorem skipsAddTwoWhenTheirConditionHolds : Obligations.SkipsAddTwoWhenTheirConditionHolds :=
  fun s _ _ _ =>
    ⟨⟨_, rfl, onlyPc_skip s _⟩, ⟨_, rfl, onlyPc_skip_not s _⟩, ⟨_, rfl, onlyPc_skip s _⟩, ⟨_, rfl, onlyPc_skip_not s _⟩⟩

/-! ### The stack (R70, R71) -/

/-- A fatal error of `i` halts the machine, and its record holds the word and the address of `i` (R122, R125). -/
theorem halts_of_raises_fatal {i : Instr} {s : State} {k : ErrorKind} (h : exec i s = .next (s.raiseIn k i))
    (fatal : k.fatal = true) :
    ∃ t, exec i s = .next t ∧ AfterError ⟨k, some (encode i), s.pc - 2⟩ s t ∧ t.halted = true := by
  refine ⟨_, h, afterError_raiseIn k i s, ?_⟩
  calc (s.raiseIn k i).halted = (s.halted || k.fatal) := rfl
    _ = true := by rw [fatal, Bool.or_true]

/-- Settles O24: the stack has a most recent entry, or it is empty. -/
theorem returnPopsOrUnderflows : Obligations.ReturnPopsOrUnderflows :=
  ⟨decode_encode .ret, fun _ =>
    ⟨fun _ _ top => ⟨_, exec_ret_cons top, rfl, fun _ => rfl⟩, fun empty => halts_of_raises_fatal (exec_ret_nil empty) rfl⟩⟩

/-- Settles O25: a stack within its bound has room, or it is full. -/
theorem callPushesOrOverflows : Obligations.CallPushesOrOverflows := by
  refine fun s nnn depth => ⟨fun notFull => ?_, fun full => ?_⟩
  · have room : s.stack.length < s.cfg.stackDepth := lt_of_le_of_ne depth notFull
    exact ⟨_, exec_call_room nnn room, rfl, toNat_addressOf nnn, fun _ => rfl⟩
  · exact halts_of_raises_fatal (exec_call_full nnn full.ge) rfl

/-! ### `Exit` (R65, R78) -/

theorem exec_exit_schip {s : State} (schip : s.cfg.variant = .schip) : exec .exit s = .next { s with running := false } :=
  schipOnly_schip schip

/-- A step that leaves the machine exited ends its tick with the result `ok`. -/
theorem CanRun.step_next_of_exited {s t : State} (h : CanRun s) (ht : fetchAndExecute (openTick s) = .next t)
    (isOpen : t.stepsLeft ≠ 0) (exited : t.exited = true) : step s = .next { t with stepsLeft := 0, result := some .ok } := by
  rw [h.step_next ht, closeStep_of_exited isOpen exited]

/-- The step that runs `Exit` ends the tick that it has opened or found open. -/
theorem CanRun.step_exit {s : State} (h : CanRun s) (schip : s.cfg.variant = .schip) (fetched : Fetches s .exit) :
    step s = .next { (openTick s).advance with running := false, stepsLeft := 0, result := some .ok } := by
  have executed : fetchAndExecute (openTick s) = .next { (openTick s).advance with running := false } :=
    fetched.in_openTick.fetchAndExecute_eq.trans (exec_exit_schip schip)
  have isOpen : (openTick s).stepsLeft ≠ 0 := Nat.ne_of_gt (stepsLeft_openTick_pos s)
  exact h.step_next_of_exited executed isOpen ((exited_eq_true_iff _).2 ⟨schip, rfl⟩)

/-- Settles O29. -/
theorem exitClearsRunningAndEndsTheTick : Obligations.ExitClearsRunningAndEndsTheTick := by
  refine fun s schip => ⟨⟨_, exec_exit_schip schip, rfl, fun _ => rfl⟩, fun runs inside word => ?_⟩
  have fetched : Fetches s .exit := ⟨inside, (congrArg decode word).trans (decode_encode .exit)⟩
  exact ⟨_, runs.step_exit schip fetched, rfl, rfl, rfl, rfl⟩

end Sys2Proof.Machine
end

section
/-! PROOFS of the family 42_alu.md. Every instruction of the family writes its result to `V[x]`, and those with a flag write
`VF` after it; what is left for each is that the result and the flag are the numbers of its rule. -/

namespace Sys2Proof.Machine

/-! ### What writing a register, or a register and the flag, does (R12, R13, R15) -/

theorem onlyRegisters_setReg (s : State) (x : Reg) (b : Byte) : OnlyRegisters s (s.setReg x b) := ⟨rfl, fun _ => rfl⟩

theorem onlyRegisters_setResultAndFlag (s : State) (x : Reg) (b : Byte) (f : Bool) :
    OnlyRegisters s (s.setResultAndFlag x b f) := ⟨rfl, fun _ => rfl⟩

section
variable {i : Instr} {s : State} {x : Reg} {b : Byte}

/-- An instruction that writes the value `result` to `V[x]`. -/
theorem writes_of_exec_setReg {result : Byte} (h : exec i s = .next (s.setReg x b)) (value : b = result) :
    ∃ t, exec i s = .next t ∧ OnlyRegisters s t ∧ ∀ r, t.reg r = if r = x then result else s.reg r :=
  ⟨_, h, onlyRegisters_setReg s x b, fun r => value ▸ reg_setReg s x r b⟩

/-- An instruction that writes to `V[x]` a value given by its bits. -/
theorem writes_bits_of_exec_setReg {bit : Nat → Bool} (h : exec i s = .next (s.setReg x b))
    (bits : ∀ k, b.getLsbD k = bit k) :
    ∃ t, exec i s = .next t ∧ OnlyRegisters s t ∧ (∀ r, r ≠ x → t.reg r = s.reg r) ∧
      ∀ k, (t.reg x).getLsbD k = bit k := by
  refine ⟨_, h, onlyRegisters_setReg s x b, fun _ other => reg_setReg_of_ne s b other, fun k => ?_⟩
  rw [reg_setReg_self, bits]

/-- An instruction that writes the value `result` to `V[x]` and then the value `flag` to `VF`, which wins when `x = F`. -/
theorem writes_of_exec_setResultAndFlag {f : Bool} {result flag : Byte}
    (h : exec i s = .next (s.setResultAndFlag x b f)) (value : b = result) (flagValue : flagByte f = flag) :
    ∃ t, exec i s = .next t ∧ OnlyRegisters s t ∧
      ∀ r, t.reg r = if r = 15 then flag else if r = x then result else s.reg r := by
  refine ⟨_, h, onlyRegisters_setResultAndFlag s x b f, fun r => ?_⟩
  rw [reg_setResultAndFlag, flagValue, value]

end

/-! ### The results and the flags as numbers (R81, R86 to R90) -/

theorem add_eq_ofNat_mod (a b : Byte) : a + b = BitVec.ofNat 8 ((a.toNat + b.toNat) % 256) := by
  bv_omega

theorem sub_eq_ofInt (l r : Byte) : l - r = BitVec.ofInt 8 (l.toNat - r.toNat) := by
  simp [Int.sub_eq_add_neg, BitVec.ofInt_add, BitVec.ofInt_neg, BitVec.sub_eq_add_neg]

theorem ushiftRight_one_eq_ofNat (src : Byte) : src >>> 1 = BitVec.ofNat 8 (src.toNat / 2) := by
  bv_omega

theorem shiftLeft_one_eq_ofNat_mod (src : Byte) : src <<< 1 = BitVec.ofNat 8 (2 * src.toNat % 256) := by
  bv_omega

/-- A flag that says whether `p` holds. -/
theorem flagByte_decide (p : Prop) [Decidable p] : flagByte (decide p) = if p then 1 else 0 := by
  simp [flagByte]

/-- A flag that says whether a bit, as a number, is 1 holds that bit. -/
theorem flagByte_decide_eq_one {bit : Nat} (h : bit < 2) : flagByte (decide (bit = 1)) = BitVec.ofNat 8 bit := by
  interval_cases bit <;> rfl

theorem flagByte_shiftedOutRight (src : Byte) : flagByte (shiftedOutRight src) = BitVec.ofNat 8 (src.toNat % 2) := by
  rw [shiftedOutRight, BitVec.getLsbD, Nat.testBit_zero, flagByte_decide_eq_one (Nat.mod_lt _ (by decide))]

theorem flagByte_shiftedOutLeft (src : Byte) : flagByte (shiftedOutLeft src) = BitVec.ofNat 8 (src.toNat / 128) := by
  have top : src.toNat / 2 ^ 7 % 2 = src.toNat / 128 := by omega
  rw [shiftedOutLeft, BitVec.getLsbD, Nat.testBit_eq_decide_div_mod_eq, top, flagByte_decide_eq_one (by omega)]

/-! ### The encodings (R52) -/

theorem ofNat_eq_regField (r : Reg) : BitVec.ofNat 4 r = regField r := by
  simp [regField]

theorem decode_fields_XNN {g : Nibble} {i : Instr} {x : Reg} {nn : Byte} (h : encode i = encodeXNN g x nn) :
    decode (g ++ BitVec.ofNat 4 x ++ nn) = .ok i := by
  rw [ofNat_eq_regField, ← encodeXNN, ← h, decode_encode]

theorem decode_fields_XY {g n : Nibble} {i : Instr} {x y : Reg} (h : encode i = encodeXY g x y n) :
    decode (g ++ BitVec.ofNat 4 x ++ BitVec.ofNat 4 y ++ n) = .ok i := by
  rw [ofNat_eq_regField, ofNat_eq_regField, ← encodeXY, ← h, decode_encode]

/-! ### The obligations -/

/-- Settles O17. -/
theorem setInstructionsWriteOneRegister : Obligations.SetInstructionsWriteOneRegister :=
  fun _ _ _ _ =>
    ⟨decode_fields_XNN rfl, decode_fields_XY rfl, writes_of_exec_setReg rfl rfl, writes_of_exec_setReg rfl rfl⟩

/-- Settles O18: the operands are those of `s`, so the sum and the carry are of the values before the writes. -/
theorem addWritesSumThenCarry : Obligations.AddWritesSumThenCarry :=
  fun _ _ _ =>
    ⟨decode_fields_XY rfl, writes_of_exec_setResultAndFlag rfl (add_eq_ofNat_mod _ _) (flagByte_decide _)⟩

/-- Settles O19: the two instructions exchange the operands of one subtraction. -/
theorem subtractionsWriteDifferenceThenNotBorrow : Obligations.SubtractionsWriteDifferenceThenNotBorrow :=
  fun _ _ _ =>
    ⟨decode_fields_XY rfl, decode_fields_XY rfl,
      writes_of_exec_setResultAndFlag rfl (sub_eq_ofInt _ _) (flagByte_decide _),
      writes_of_exec_setResultAndFlag rfl (sub_eq_ofInt _ _) (flagByte_decide _)⟩

/-- Settles O20: the sum is written as a number, and the three operations of logic bit by bit. -/
theorem flaglessOperationsLeaveVF : Obligations.FlaglessOperationsLeaveVF :=
  fun _ _ _ _ =>
    ⟨writes_of_exec_setReg rfl (add_eq_ofNat_mod _ _),
      writes_bits_of_exec_setReg rfl fun _ => BitVec.getLsbD_or,
      writes_bits_of_exec_setReg rfl fun _ => BitVec.getLsbD_and,
      writes_bits_of_exec_setReg rfl fun _ => BitVec.getLsbD_xor⟩

/-- Settles O21: the source named is `shiftSource`. -/
theorem shiftsWriteResultThenBitShiftedOut : Obligations.ShiftsWriteResultThenBitShiftedOut := by
  intro s x y src hsrc
  obtain rfl : src = shiftSource s x y := hsrc
  exact ⟨writes_of_exec_setResultAndFlag rfl (ushiftRight_one_eq_ofNat _) (flagByte_shiftedOutRight _),
    writes_of_exec_setResultAndFlag rfl (shiftLeft_one_eq_ofNat_mod _) (flagByte_shiftedOutLeft _)⟩

/-- Settles O22: a byte masked with `nn` has no bit in common with the complement of `nn`, whatever byte is drawn. -/
theorem randomIsMaskedDraw : Obligations.RandomIsMaskedDraw := by
  intro s x nn
  refine ⟨_, rfl, rfl, fun _ => rfl, fun r => reg_setReg s x r _, ?_⟩
  calc (s.setReg x (Config.randomDraw s.draws &&& nn)).reg x &&& ~~~nn
      = Config.randomDraw s.draws &&& (nn &&& ~~~nn) := by rw [reg_setReg_self, BitVec.and_assoc]
    _ = Config.randomDraw s.draws &&& 0 := by rw [BitVec.and_not_self]
    _ = 0 := BitVec.and_zero

end Sys2Proof.Machine
end

section
/-! PROOFS of the family 43_index_memory.md. An instruction of the family writes `I`, writes memory from `I`, or loads registers
from there; each of these has one frame, and what is left is that the address or the bytes are those of its rule. -/

namespace Sys2Proof.Machine

/-! ### Writing `I` (R92 to R95) -/

theorem onlyIndex_setIndex (s : State) (a : Word) : OnlyIndex s (s.setIndex a) := ⟨rfl, fun _ => rfl⟩

/-- Settles O30. -/
theorem setIndexLoadsAddress : Obligations.SetIndexLoadsAddress :=
  fun s nnn => ⟨decode_encode (.setIndex nnn), _, rfl, onlyIndex_setIndex s _, toNat_addressOf nnn⟩

/-- Settles O33. -/
theorem addIndexWrapsAtSixteenBits : Obligations.AddIndexWrapsAtSixteenBits := by
  refine fun s x => ⟨_, rfl, onlyIndex_setIndex s _, ?_⟩
  rw [setIndex_index, BitVec.toNat_add, toNat_wordOfByte]

/-- The address of a glyph does not wrap when the whole font, of 16 glyphs, lies below `2^16`. -/
theorem toNat_glyphAddress {base size : Nat} (pos : 0 < size) (fits : base + 16 * size ≤ 65536) (b : Byte) :
    (glyphAddress base size b).toNat = base + size * (b.toNat % 16) := by
  have glyph : size * (b.toNat % 16) ≤ size * 15 := Nat.mul_le_mul_left size (by omega)
  rw [glyphAddress, low4, BitVec.toNat_ofNat, Nat.mod_eq_of_lt (by omega)]

/-- Settles O31. -/
theorem setIndexFontPointsAtGlyph : Obligations.SetIndexFontPointsAtGlyph :=
  fun s _ => ⟨decode_fields_XNN rfl, _, rfl, onlyIndex_setIndex s _, fun fits => toNat_glyphAddress (by decide) fits _⟩

/-- Settles O32: in SCHIP the variant gate gives the effect. -/
theorem setIndexBigFontPointsAtGlyph : Obligations.SetIndexBigFontPointsAtGlyph :=
  fun s _ schip =>
    ⟨_, schipOnly_schip schip, onlyIndex_setIndex s _, fun fits => toNat_glyphAddress (by decide) fits _⟩

/-- Settles O39: in SCHIP the variant gate gives the effect, which is none. -/
theorem flagPlaceholdersDoNothing : Obligations.FlagPlaceholdersDoNothing :=
  fun _ _ schip => ⟨schipOnly_schip schip, schipOnly_schip schip⟩

/-! ### Writing memory from `I` (R43, R96, R97) -/

theorem onlyBytes_writeBytes (s : State) (a : Nat) (bs : List Byte) : OnlyBytes a bs.length s (s.writeBytes a bs) :=
  ⟨rfl, fun _ outside => readByte_writeBytes_outside s a _ bs outside⟩

/-- Each digit of a byte fits a byte, so that no digit is cut. -/
theorem map_toNat_decimalDigits (b : Byte) :
    (decimalDigits b).map BitVec.toNat = [b.toNat / 100, b.toNat / 10 % 10, b.toNat % 10] := by
  have hundreds : b.toNat / 100 < 2 ^ 8 := by omega
  have tens : b.toNat / 10 % 10 < 2 ^ 8 := by omega
  have units : b.toNat % 10 < 2 ^ 8 := by omega
  simp only [decimalDigits, List.map_cons, List.map_nil, BitVec.toNat_ofNat, Nat.mod_eq_of_lt, hundreds, tens, units]

/-- The digits written from `a` read back as they were. -/
theorem toNat_readByte_writeBytes_decimalDigits {s : State} {a : Nat} (hw : Memory.wf s.cfg s.mem) (ha : a + 2 < 4096)
    (b : Byte) (j : Fin 3) : ((s.writeBytes a (decimalDigits b)).readByte (a + j.val)).toNat =
      [b.toNat / 100, b.toNat / 10 % 10, b.toNat % 10][j] :=
  calc ((s.writeBytes a (decimalDigits b)).readByte (a + j.val)).toNat
      = ((decimalDigits b)[j.val]'j.isLt).toNat := by
        rw [readByte_writeBytes_inside s a j.val (decimalDigits b) hw ha j.isLt]
    _ = ((decimalDigits b).map BitVec.toNat)[j.val]'j.isLt := (List.getElem_map ..).symm
    _ = [b.toNat / 100, b.toNat / 10 % 10, b.toNat % 10][j] := by simp only [map_toNat_decimalDigits, Fin.getElem_fin]

/-- Settles O34: the three bytes are the digits of `V[x]`, in the order of the rule. -/
theorem decimalConversionWritesDigits : Obligations.DecimalConversionWritesDigits := by
  intro s x hw fits
  have inside : inMemory s.index.toNat 3 = true := (inMemory_iff _ _).2 (.inr fits)
  have digit := toNat_readByte_writeBytes_decimalDigits hw fits (s.reg x)
  exact ⟨_, exec_decimalConversion_inside x inside, onlyBytes_writeBytes s _ _, digit 0, digit 1, digit 2⟩

/-- Settles O35: as many bytes are written as there are registers up to `V[x]`. -/
theorem storeMemoryWritesRegisters : Obligations.StoreMemoryWritesRegisters := by
  intro s x hw fits
  refine ⟨_, exec_storeMemory_inside x (inMemory_registerCount fits), ?_, fun r hr => ?_⟩
  · have frame := onlyBytes_writeBytes s s.index.toNat (s.registersUpTo x)
    rwa [length_registersUpTo] at frame
  · exact readByte_writeBytes_registersUpTo hw fits hr

/-! ### Reading memory from `I` (R98) -/

theorem onlyRegisters_loadRegisters (s : State) (x : Reg) : OnlyRegisters s (s.loadRegisters x) :=
  ⟨rfl, readByte_congr (loadRegisters_cfg s x) (loadRegisters_mem s x)⟩

/-- Settles O36. -/
theorem loadMemoryReadsRegisters : Obligations.LoadMemoryReadsRegisters :=
  fun s x fits =>
    ⟨_, exec_loadMemory_inside x (inMemory_registerCount fits), onlyRegisters_loadRegisters s x, reg_loadRegisters s x⟩

end Sys2Proof.Machine
end

section
/-! PROOFS of the family 44_timers_keys.md. The timer instructions write one byte; a key skip turns on whether `V[x]` numbers a
key, and `GetKey` on whether a key has been released. -/

namespace Sys2Proof.Machine

/-! ### The timers (R101 to R103) -/

/-- Settles O41: the sound is active exactly when `ST` is not 0 (R103, D39). -/
theorem timerInstructionsMoveOneByte : Obligations.TimerInstructionsMoveOneByte :=
  fun _ _ =>
    ⟨writes_of_exec_setReg rfl rfl, ⟨_, rfl, rfl, fun _ => rfl⟩,
      ⟨_, rfl, rfl, fun _ => rfl, soundActive_eq_true_iff _⟩⟩

/-! ### The key skips (R32, R104, R105) -/

/-- A byte that numbers a key reads that key. -/
theorem keyDown_eq_some (s : State) {b : Byte} {k : Fin 16} (h : b.toNat = k.val) :
    s.keyDown b = some s.keysDown[k] := by
  rw [State.keyDown, h, Vector.getElem?_eq_getElem k.isLt, Fin.getElem_fin]

/-- A byte above 15 numbers no key. -/
theorem keyDown_eq_none (s : State) {b : Byte} (h : 15 < b.toNat) : s.keyDown b = none :=
  Vector.getElem?_eq_none h

/-- The fatal error of an instruction whose word has the fields `g`, `x` and `nn`, with that word in its record. -/
theorem halts_of_raises_XNN {i : Instr} {s : State} {kind : ErrorKind} {g : Nibble} {x : Reg} {nn : Byte}
    (h : exec i s = .next (s.raiseIn kind i)) (fatal : kind.fatal = true) (word : encode i = encodeXNN g x nn) :
    ∃ t, exec i s = .next t ∧ t.halted = true ∧ AfterError ⟨kind, some (g ++ BitVec.ofNat 4 x ++ nn), s.pc - 2⟩ s t := by
  obtain ⟨t, ht, after, halted⟩ := halts_of_raises_fatal h fatal
  rw [word, ← xnn_eq_encodeXNN] at after
  exact ⟨t, ht, halted, after⟩

/-- Settles O42: `V[x]` numbers a key, which is down or not, or it is above 15. -/
theorem keySkipsReadKeysDown : Obligations.KeySkipsReadKeysDown := by
  refine fun s x => ⟨fun k number => ?_, fun above => ?_⟩
  · have key : s.keyDown (s.reg x) = some s.keysDown[k] := keyDown_eq_some s number
    refine ⟨⟨_, exec_skipIfKey_some key, onlyPc_skip s _⟩, _, exec_skipIfNotKey_some key, ?_⟩
    rw [← ite_not]
    exact onlyPc_skip_not s _
  · have noKey : s.keyDown (s.reg x) = none := keyDown_eq_none s above
    exact ⟨halts_of_raises_XNN (exec_skipIfKey_none noKey) rfl rfl,
      halts_of_raises_XNN (exec_skipIfNotKey_none noKey) rfl rfl⟩

/-! ### `GetKey` (R106) -/

/-- Settles O43: a lowest released key exists, or none is released. -/
theorem getKeyTakesLowestOrRewinds : Obligations.GetKeyTakesLowestOrRewinds := by
  refine fun s x => ⟨fun k released lowest => ?_, fun noKey => ?_⟩
  · exact writes_of_exec_setReg (exec_getKey_some x (lowestKey_eq_some released lowest)) rfl
  · exact ⟨_, exec_getKey_none x (lowestKey_eq_none noKey), onlyPc_setPc s _, rfl⟩

end Sys2Proof.Machine
end

section
/-! PROOFS of the family 45_display.md. A scroll is one equation for the pixels of the grid it leaves. The pixels a `Draw`
toggles are those its sprite covers, each once, so that drawing again toggles the same ones back. -/

namespace Sys2Proof.Machine

/-! ### Clearing the grid and setting the mode (R107, R116, R117) -/

theorem onlyFramebuffer_with_fb (s : State) (fb : Framebuffer) : OnlyFramebuffer s { s with fb := fb } :=
  ⟨rfl, fun _ => rfl⟩

/-- Settles O44. -/
theorem clearScreenZeroesEveryPixel : Obligations.ClearScreenZeroesEveryPixel :=
  fun s => ⟨_, rfl, onlyFramebuffer_with_fb s _, pixel_blank⟩

/-- Settles O47: in SCHIP the variant gate gives the effect. -/
theorem modeInstructionsSetAndClearHires : Obligations.ModeInstructionsSetAndClearHires :=
  fun _ schip =>
    ⟨⟨_, schipOnly_schip schip, rfl, fun _ => rfl⟩, ⟨_, schipOnly_schip schip, rfl, fun _ => rfl⟩⟩

/-! ### The scrolls (R118 to R121) -/

/-- Four columns, doubled in lo-res (R120, R121). -/
theorem scrollDistance_four (hires : Bool) : scrollDistance hires 4 = if hires = true then 4 else 8 := rfl

/-- A scroll to the left takes a pixel from `m` columns to the right of it; past column 127 there is none. -/
theorem pixel_left (fb : Framebuffer) (m px py : Nat) :
    (Framebuffer.left fb m).pixel px py = if px + m < 128 then Framebuffer.pixel fb (px + m) py else false := by
  have moved : (Framebuffer.left fb m).pixel px py = Framebuffer.pixel fb (px + m) py := by
    rcases Nat.lt_or_ge py 64 with hy | hy
    · simp [pixel_of_lt, hy, Framebuffer.left, Nat.add_comm]
    · rw [pixel_of_ge _ _ hy, pixel_of_ge _ _ hy]
  rw [moved]
  split
  · rfl
  · exact pixel_wide fb py (by omega)

/-- A scroll to the right takes a pixel from `m` columns to the left of it; before column 0 there is none. -/
theorem pixel_right (fb : Framebuffer) (m : Nat) {px : Nat} (py : Nat) (hx : px < 128) :
    (Framebuffer.right fb m).pixel px py = if m ≤ px then Framebuffer.pixel fb (px - m) py else false := by
  rcases Nat.lt_or_ge py 64 with hy | hy
  · rw [pixel_of_lt _ _ hy, pixel_of_lt _ _ hy, Framebuffer.right, Vector.getElem_map, BitVec.getLsbD_shiftLeft]
    by_cases h : m ≤ px
    · simp only [hx, h, Nat.not_lt.2 h, decide_true, decide_false, Bool.not_false, Bool.true_and, if_true]
    · simp [h, Nat.lt_of_not_le h]
  · simp [pixel_of_ge, hy]

/-- A scroll down takes a pixel from `m` rows above it; above row 0 there is none. -/
theorem pixel_down (fb : Framebuffer) (m px : Nat) {py : Nat} (hy : py < 64) :
    (Framebuffer.down fb m).pixel px py = if m ≤ py then Framebuffer.pixel fb px (py - m) else false := by
  rw [pixel_of_lt _ _ hy]
  by_cases h : m ≤ py
  · have above : py - m < 64 := by omega
    simp [Framebuffer.down, h, pixel_of_lt _ _ above, above]
  · simp [Framebuffer.down, h]

/-- Settles O48. -/
theorem scrollLeftMovesEveryPixel : Obligations.ScrollLeftMovesEveryPixel := by
  refine ⟨decode_encode .scrollLeft, fun s schip => ?_⟩
  refine ⟨_, schipOnly_schip schip, onlyFramebuffer_with_fb s _, fun px py _ _ => ?_⟩
  rw [← scrollDistance_four]
  exact pixel_left s.fb _ px py

/-- Settles O49. -/
theorem scrollsDownAndRightMoveEveryPixel : Obligations.ScrollsDownAndRightMoveEveryPixel := by
  refine fun s n schip => ⟨?_, ?_⟩
  · exact ⟨_, schipOnly_schip schip, onlyFramebuffer_with_fb s _, fun px _ _ hy => pixel_down s.fb _ px hy⟩
  · refine ⟨_, schipOnly_schip schip, onlyFramebuffer_with_fb s _, fun px py hx _ => ?_⟩
    rw [← scrollDistance_four]
    exact pixel_right s.fb _ py hx

/-! ### Drawing a sprite (R108 to R115) -/

/-- The loops of R111 visit the pixels the sprite covers. -/
theorem mem_spritePixels_iff_covers (s : State) (g : Geometry) (px py : Nat) :
    (px, py) ∈ s.spritePixels g ↔ SpriteCovers s g px py := by
  simp only [mem_spritePixels, mem_square, State.spriteBit, SpriteCovers]

theorem flagByte_eq_one_iff (b : Bool) : flagByte b = 1 ↔ b = true := by
  cases b <;> simp [flagByte]

section
variable (s : State) (x y : Reg) (n : Nibble)

theorem spritePixels_on_grid : ∀ p ∈ s.spritePixels (s.geometryOf x y n), p.1 < 128 ∧ p.2 < 64 := by
  intro p painted
  obtain ⟨width, height⟩ := geometryOf_fits s x y n
  obtain ⟨inWidth, inHeight, -⟩ := (mem_spritePixels s _ p.1 p.2).1 painted
  exact ⟨Nat.lt_of_lt_of_le inWidth width, Nat.lt_of_lt_of_le inHeight height⟩

theorem pixel_drawnState (px py : Nat) :
    (drawnState s x y n).pixel px py =
      if (px, py) ∈ s.spritePixels (s.geometryOf x y n) then !s.pixel px py else s.pixel px py :=
  (drawPixels_spec s.fb _ (nodup_spritePixels s _) (spritePixels_on_grid s x y n)).1 px py

/-- `VF` ends as 1 exactly when a covered pixel was set (R113). -/
theorem flag_drawnState_eq_one_iff :
    (drawnState s x y n).reg VF = 1 ↔
      ∃ px py, SpriteCovers s (s.geometryOf x y n) px py ∧ s.pixel px py = true := by
  have collides := (drawPixels_spec s.fb _ (nodup_spritePixels s _) (spritePixels_on_grid s x y n)).2
  simp only [mem_spritePixels_iff_covers] at collides
  rw [drawnState, reg_setReg_self, flagByte_eq_one_iff]
  exact collides

theorem reg_drawnState_of_ne {r : Reg} (h : r ≠ VF) : (drawnState s x y n).reg r = s.reg r :=
  reg_setReg_of_ne _ _ h

/-- Drawing leaves the place of a sprite where neither coordinate register is `VF`. -/
theorem geometryOf_drawnState (hx : x ≠ VF) (hy : y ≠ VF) :
    (drawnState s x y n).geometryOf x y n = s.geometryOf x y n := by
  unfold State.geometryOf
  rw [reg_drawnState_of_ne s x y n hx, reg_drawnState_of_ne s x y n hy]
  rfl

/-- A sprite is read from memory, which drawing leaves alone. -/
theorem spritePixels_drawnState (g : Geometry) : (drawnState s x y n).spritePixels g = s.spritePixels g := by
  have bits : (drawnState s x y n).spriteBit g = s.spriteBit g := rfl
  simp only [State.spritePixels, bits]

/-- The second drawing toggles the pixels of the first, and no other. -/
theorem fb_drawnState_drawnState (hx : x ≠ VF) (hy : y ≠ VF) : (drawnState (drawnState s x y n) x y n).fb = s.fb := by
  refine framebuffer_ext fun px py _ _ => ?_
  change (drawnState (drawnState s x y n) x y n).pixel px py = s.pixel px py
  rw [pixel_drawnState, geometryOf_drawnState s x y n hx hy, spritePixels_drawnState, pixel_drawnState]
  split
  · exact Bool.not_not _
  · rfl

end

/-- Settles O45: the geometry named is that of the model's table in each mode, and the sprite's bytes pass its check. -/
theorem drawTogglesExactlyTheCoveredPixels : Obligations.DrawTogglesExactlyTheCoveredPixels := by
  intro s x y n g hg fits
  have geometry : g = s.geometryOf x y n := by
    rw [hg, State.geometryOf]
    cases s.cfg.variant with
    | chip8 => rfl
    | schip => cases s.hires <;> rfl
  subst geometry
  have inside : inMemory s.index.toNat (s.geometryOf x y n).bytes = true := by
    rw [inMemory_iff, Geometry.bytes, memSize]
    omega
  refine ⟨drawnState s x y n, exec_draw_inside x y n inside, rfl, fun _ => rfl, fun px py covered => ?_,
    fun px py notCovered => ?_, fun r => reg_drawnState_of_ne s x y n, ?_, flag_drawnState_eq_one_iff s x y n⟩
  · rw [pixel_drawnState, if_pos ((mem_spritePixels_iff_covers s _ px py).2 covered)]
  · rw [pixel_drawnState, if_neg (mt (mem_spritePixels_iff_covers s _ px py).1 notCovered)]
  · rw [drawnState, reg_setReg_self]
    exact flagByte_eq_zero_or_one _

/-- Settles O46: both drawings read the same bytes at the same place. -/
theorem drawingTwiceRestoresTheFramebuffer : Obligations.DrawingTwiceRestoresTheFramebuffer := by
  intro s x y n hx hy fits
  have inside : inMemory s.index.toNat (s.geometryOf x y n).bytes = true := by
    rw [inMemory_iff, State.geometryOf, bytes_geometry, memSize]
    split
    · omega
    · split <;> omega
  have insideAgain : inMemory (drawnState s x y n).index.toNat ((drawnState s x y n).geometryOf x y n).bytes = true := by
    rw [geometryOf_drawnState s x y n hx hy]
    exact inside
  exact ⟨_, _, exec_draw_inside x y n inside, exec_draw_inside x y n insideAgain, fb_drawnState_drawnState s x y n hx hy⟩

end Sys2Proof.Machine
end

section
/-! PROOFS of the family 60_exceptions.md. An instruction has one of two ends: it raises one error of its own in the state it
executes in, or it leaves the error state and the tick alone. -/

namespace Sys2Proof.Machine

/-- Settles O51: the error raised enters the record of the instruction's own word and address into the state it executes in,
and its kind is neither of the two that belong to the step (R59, R55). -/
theorem errorsArePrecise : Obligations.ErrorsArePrecise := by
  intro i s
  rcases exec_cases i s with ⟨k, raises, notUnknown, notFetch, -⟩ | ⟨-, t, completes, quiet⟩
  · exact ⟨s.raiseIn k i, raises, .inr ⟨s.errorOf k i, afterError_raiseIn k i s, rfl, rfl, notUnknown, notFetch⟩⟩
  · exact ⟨t, completes, .inl quiet⟩

end Sys2Proof.Machine
end
